-- ==== Sys2Proof/Word.lean ====
section
/-! DEFINITION. The widths of the values of WS2811-BBE (R9: every value is an unsigned integer of a stated width). -/

namespace Sys2Proof

/-- A byte (R9). -/
abbrev Byte := BitVec 8

/-- A command word (R92): 44 bits. -/
abbrev CmdWord := BitVec 44

/-- A pixel index (R92, field `IDX`). -/
abbrev PixIndex := BitVec 16

/-- A packed colour (R97) and a response (R95): 24 bits. -/
abbrev Color := BitVec 24

/-- A logical pin id (R30). -/
abbrev PinId := BitVec 8

/-- The opaque name of one GPIO output register (R31, R42): only equality of names is ever used. -/
abbrev Handle := Nat

/-- A value of `PORT_W` bits (R7), bit `j` of the register being bit `j` of the number. -/
abbrev PortValue := Nat

end Sys2Proof
end

