-- ==== Sys2Proof/Syntax.lean ====
section
/-! DEFINITION. The ten commands of R93, one constructor per row of spec/opcode_table.json, with the operands of R98. -/

namespace Sys2Proof

/-- A command of the command port (R93). Every operand has the width of its field (R98, R105). -/
inductive Instr where
  /-- BEGIN (R222): `begin()`. -/
  | beginBind
  /-- END (R224): `end()`. -/
  | endBind
  /-- SETPIN (R226): `setPin(pin)`. -/
  | setPin (pin : PinId)
  /-- SETPIX3 (R172): `setPixelColor(index, r, g, b)`. -/
  | setPix3 (index : PixIndex) (r g b : Byte)
  /-- SETPIXP (R173): `setPixelColor(index, packedColor)`. -/
  | setPixP (index : PixIndex) (color : Color)
  /-- GETPIX (R174): `getPixelColor(index)`. -/
  | getPix (index : PixIndex)
  /-- NUMPIX (R175): `numPixels()`. -/
  | numPix
  /-- SETBRT (R200): `setBrightness(level)`. -/
  | setBrt (level : Byte)
  /-- SHOW (R131): `show()`. -/
  | showFrame
  /-- COLOR (R176): `Color(r, g, b)`. -/
  | color (r g b : Byte)
  deriving DecidableEq, Repr

end Sys2Proof
end

