-- ==== Sys2Proof/Config.lean ====
section
/-! DEFINITION. The parameters of the block (R7, R8), the events of the GPIO binding (R261), and the free values of the
disturbed rest of a frame (R266). -/

namespace Sys2Proof

/-- The timing profile (R8): five durations in `clk` cycles and the clock it was tuned for. -/
structure Profile where
  t0h : BitVec 32
  t0l : BitVec 32
  t1h : BitVec 32
  t1l : BitVec 32
  tres : BitVec 32
  /-- `TAG_HZ`. -/
  tagHz : Nat
  deriving DecidableEq, Repr

/-- One row of the pin-mapping table behind `Resolve` (R7): pin `pin` is bit `mask` of output register `handle`. -/
structure PinRow where
  pin : PinId
  handle : Handle
  mask : PortValue
  deriving DecidableEq, Repr

/-- The timing of a command: `LAT_CMD`, how many cycles it keeps the port busy (R7), and in which cycle after its acceptance its
response is on the response port (R95 leaves the cycle open). -/
structure CmdTiming where
  busy : Nat
  rsp : Nat
  deriving DecidableEq, Repr

/-- The build-time parameters (R7). `LAT_CMD` is a function of the command: `timing` lists the commands that differ from
`timingDefault`. -/
structure Config where
  fClk : Nat
  profile : Profile
  portW : Nat
  pins : List PinRow
  timingDefault : CmdTiming
  timing : List (Instr × CmdTiming)
  deriving DecidableEq, Repr

/-- The straps (R7, R90): the inputs that reset latches (R291). An unconnected `CFG_ORDER` is 1, GRB (R291). -/
structure Straps where
  n : BitVec 16
  pin : PinId
  order : BitVec 2 := 1
  allocOk : Bool
  deriving DecidableEq, Repr

/-- The mode of a pin (R262). -/
inductive PinMode where
  | input
  | output
  deriving DecidableEq, Repr, Inhabited

/-- An event of the GPIO binding (R261 to R263). -/
inductive GpioEvent where
  /-- `GpioMode(p, m)` (R262). -/
  | mode (pin : PinId) (m : PinMode)
  /-- `GpioSet(h, mask)` (R263). -/
  | set (h : Handle) (mask : PortValue)
  /-- `GpioClr(h, mask)` (R263). -/
  | clr (h : Handle) (mask : PortValue)
  deriving DecidableEq, Repr, Inhabited

/-- The three sequencer phases a frame in progress can be in (R32 without IDLE). -/
inductive FramePhase where
  | hi
  | lo
  | gap
  deriving DecidableEq, Repr, Inhabited

/-- What one cycle of the disturbed rest of a frame shows (R266): the spec defines nothing of it but R45's limits, which
`disturbedPosition` keeps. -/
structure Disturbance where
  line : Bool
  event : Option GpioEvent
  phase : FramePhase
  bytePtr : BitVec 18
  bitIdx : BitVec 3
  cnt : BitVec 32
  deriving DecidableEq, Repr, Inhabited

/-- FREE VALUE (R266, log entry 10): how many cycles the rest of a disturbed frame lasts. The spec says only that it is
finite. -/
opaque Config.disturbedCycles : Nat → Nat

/-- FREE VALUE (R266, log entry 10): what one cycle of the rest of a disturbed frame shows. -/
opaque Config.disturbedCycle : Nat → Disturbance

/-- DESIGN CHOICE (log entry 1): the parameters `State.reset` stands with, those the spec's own examples use
(95_test_vectors.md): profile `EXU`; `Resolve(p) = (PORT, 1 << p)` for the pins of an eight-bit port, so that pin 9 does not
resolve; every `LAT_CMD` 3, the response in the first cycle after acceptance. -/
def Config.example95 : Config where
  fClk := 1000000
  profile := { t0h := 1, t0l := 3, t1h := 2, t1l := 1, tres := 5, tagHz := 1000000 }
  portW := 8
  pins :=
    [⟨0, 0, 0x01⟩, ⟨1, 0, 0x02⟩, ⟨2, 0, 0x04⟩, ⟨3, 0, 0x08⟩, ⟨4, 0, 0x10⟩, ⟨5, 0, 0x20⟩, ⟨6, 0, 0x40⟩, ⟨7, 0, 0x80⟩]
  timingDefault := { busy := 3, rsp := 1 }
  timing := []

/-- DESIGN CHOICE (log entry 1): the straps `State.reset` stands with, `CONFIG 1, 2, GRB` of program P1
(95_test_vectors.md). -/
def Straps.example95 : Straps where
  n := 1
  pin := 2
  allocOk := true

end Sys2Proof
end

