-- ==== Sys2Proof/WellFormed.lean ====
section
/-! DEFINITION. What is well-formed: a command (always: its operands have their fields' widths), a configuration (R8), the
straps (R8 (d), R99). -/

namespace Sys2Proof

/-- Every command is well-formed: each operand is a value of its field's width (R98), and no operand value is reserved. -/
def Instr.wf (_ : Instr) : Bool := true

/-- R8 (b) and the lower bound of (c); the upper bound of (c) is the width of the fields. -/
def Profile.wf (p : Profile) : Bool :=
  decide (p.t0h < p.t1h) && p.t0h != 0 && p.t0l != 0 && p.t1h != 0 && p.t1l != 0 && p.tres != 0

/-- A one-hot value of `w` bits (R7, `mask`). -/
def isOneHot (w : Nat) (m : PortValue) : Bool := (List.range w).any fun j => m == 2 ^ j

/-- A row of `Resolve` names one bit of a `PORT_W`-bit register (R7). -/
def PinRow.wf (portW : Nat) (r : PinRow) : Bool := isOneHot portW r.mask

/-- `LAT_CMD` is at least 1 (R7), and the response comes after acceptance and not later than `cmd_ready` rises (R95). -/
def CmdTiming.wf (t : CmdTiming) : Bool :=
  decide (1 ≤ t.busy) && decide (1 ≤ t.rsp) && decide (t.rsp ≤ t.busy + 1)

/-- R8 (a) to (c), with the ranges R7 gives the parameters. -/
def Config.wf (c : Config) : Bool :=
  decide (0 < c.fClk) && c.profile.tagHz == c.fClk && c.profile.wf && decide (0 < c.portW) && c.pins.all (PinRow.wf c.portW)
    && c.timingDefault.wf && c.timing.all fun r => r.2.wf

/-- R8 (d): `CFG_ORDER` is 0, 1 or 2. -/
def Straps.wf (s : Straps) : Bool := s.order != 3

end Sys2Proof
end

