-- ==== Sys2Proof/Decode.lean ====
section
/-! DEFINITION. The decoder of the 44-bit command word, total, with the reserved opcodes rejected by name (R92 to R98, R107),
and the encoder of canonical words. -/

namespace Sys2Proof

/-- The field `OP`, bits 43 to 40 (R92). -/
def opOf (w : CmdWord) : BitVec 4 := w.extractLsb' 40 4

/-- The field `IDX`, bits 39 to 24 (R92). -/
def idxOf (w : CmdWord) : PixIndex := w.extractLsb' 24 16

/-- The field `DATA`, bits 23 to 0 (R92). -/
def dataOf (w : CmdWord) : Color := w.extractLsb' 0 24

/-- Bits 23 to 16: the first byte of `DATA`, red (R92, R97). -/
def redOf (c : Color) : Byte := c.extractLsb' 16 8

/-- Bits 15 to 8: the second byte of `DATA`, green (R92, R97). -/
def greenOf (c : Color) : Byte := c.extractLsb' 8 8

/-- Bits 7 to 0: the third byte of `DATA`, blue, a pin id or a level (R92, R97). -/
def blueOf (c : Color) : Byte := c.extractLsb' 0 8

/-- `{r, g, b}` (R97). -/
def packColor (r g b : Byte) : Color := r ++ g ++ b

/-- What a word decodes to (R107): one of the ten commands with its operands, or "reserved". -/
inductive Decoded where
  | command (i : Instr)
  | reserved (op : BitVec 4)
  deriving DecidableEq, Repr

/-- The decoder (R93, R98, R107): by `OP` alone; unused bits are ignored (R94). -/
def decode (w : CmdWord) : Decoded :=
  match (opOf w).toNat with
  | 0x1 => .command .beginBind
  | 0x2 => .command .endBind
  | 0x3 => .command (.setPin (blueOf (dataOf w)))
  | 0x4 => .command (.setPix3 (idxOf w) (redOf (dataOf w)) (greenOf (dataOf w)) (blueOf (dataOf w)))
  | 0x5 => .command (.setPixP (idxOf w) (dataOf w))
  | 0x6 => .command (.getPix (idxOf w))
  | 0x7 => .command .numPix
  | 0x8 => .command (.setBrt (blueOf (dataOf w)))
  | 0x9 => .command .showFrame
  | 0xA => .command (.color (redOf (dataOf w)) (greenOf (dataOf w)) (blueOf (dataOf w)))
  | _ => .reserved (opOf w)

/-- The opcode of each command (R93). -/
def opcode : Instr → BitVec 4
  | .beginBind => 0x1
  | .endBind => 0x2
  | .setPin _ => 0x3
  | .setPix3 _ _ _ _ => 0x4
  | .setPixP _ _ => 0x5
  | .getPix _ => 0x6
  | .numPix => 0x7
  | .setBrt _ => 0x8
  | .showFrame => 0x9
  | .color _ _ _ => 0xA

/-- The word `{OP, IDX, DATA}` (R92). -/
def commandWord (op : BitVec 4) (idx : PixIndex) (data : Color) : CmdWord := op ++ idx ++ data

/-- The canonical word of a command: unused bits 0 (R94). -/
def encode (i : Instr) : CmdWord :=
  match i with
  | .beginBind => commandWord 0x1 0 0
  | .endBind => commandWord 0x2 0 0
  | .setPin pin => commandWord 0x3 0 (packColor 0 0 pin)
  | .setPix3 index r g b => commandWord 0x4 index (packColor r g b)
  | .setPixP index c => commandWord 0x5 index c
  | .getPix index => commandWord 0x6 index 0
  | .numPix => commandWord 0x7 0 0
  | .setBrt level => commandWord 0x8 0 (packColor 0 0 level)
  | .showFrame => commandWord 0x9 0 0
  | .color r g b => commandWord 0xA 0 (packColor r g b)

/-- The bits of a word with this opcode that its command does not use (R93, R94; spec/opcode_table.json, "unused"). -/
def unusedBits (op : BitVec 4) : CmdWord :=
  match op.toNat with
  | 0x1 | 0x2 | 0x7 | 0x9 => 0x0FFFFFFFFFF
  | 0x3 | 0x8 => 0x0FFFFFFFF00
  | 0x6 => 0x00000FFFFFF
  | 0xA => 0x0FFFF000000
  | _ => 0

/-- A canonical word: every unused bit is 0 (R94). -/
def canonical (w : CmdWord) : Bool := w &&& unusedBits (opOf w) == 0

/-- A number as an operand of the assembler syntax (R105), in decimal. -/
def operandText {w : Nat} (v : BitVec w) : String := toString v.toNat

/-- A command in the assembler syntax (R105): the mnemonic, then the operands separated by commas. -/
def assembly (i : Instr) : String :=
  match i with
  | .beginBind => "BEGIN"
  | .endBind => "END"
  | .setPin pin => "SETPIN " ++ operandText pin
  | .setPix3 index r g b =>
    "SETPIX3 " ++ operandText index ++ ", " ++ operandText r ++ ", " ++ operandText g ++ ", " ++ operandText b
  | .setPixP index c => "SETPIXP " ++ operandText index ++ ", " ++ operandText c
  | .getPix index => "GETPIX " ++ operandText index
  | .numPix => "NUMPIX"
  | .setBrt level => "SETBRT " ++ operandText level
  | .showFrame => "SHOW"
  | .color r g b => "COLOR " ++ operandText r ++ ", " ++ operandText g ++ ", " ++ operandText b

/-- What the decoder reads from the word whose bits are `w`, of which `nbits` are given and the bits above are 0. A command
word has one fixed length of 44 bits and reaches the block on one port (R90, R104), so there is no byte order to lay out. -/
def decodeTableWord (nbits w : Nat) : Option Instr :=
  if w % 2 ^ nbits < 2 ^ 44 then
    match decode (BitVec.ofNat 44 (w % 2 ^ nbits)) with
    | .command i => some i
    | .reserved _ => none
  else none

end Sys2Proof
end

