-- ==== Sys2Proof/Machine/State.lean ====
section
/-! DEFINITION. The state of the block (R23), its ports (R90), the part of its environment it acts on (R43), the inputs and
parameters held beside it, the reasons a step can stop, and reset (R290 to R293). -/

namespace Sys2Proof.Machine

open Sys2Proof

/-- Data by key, in one canonical form: keys strictly rising, no entry equal to what an unlisted key reads as. -/
abbrev Table (β : Type) := List (Nat × β)

/-- The bytes of the pixel buffer (R28) by address. An unlisted address reads as 0: "after reset every byte is 0" (R28). -/
abbrev Memory := List Host.Cell

/-- `ORDER` (R25, R99). Code 3 is reserved and no order. -/
inductive ChannelOrder where
  /-- Code 0. -/
  | rgb
  /-- Code 1. -/
  | grb
  /-- Code 2. -/
  | brg
  deriving DecidableEq, Repr

/-- `FSM` (R29): 0 Unbound, 1 Ready, 2 Transmitting; code 3 never occurs. -/
inductive Fsm where
  | unbound
  | ready
  | transmitting
  deriving DecidableEq, Repr

/-- `SEQ` (R32): 0 IDLE, 1 HI, 2 LO, 3 GAP. -/
inductive Seq where
  | idle
  | hi
  | lo
  | gap
  deriving DecidableEq, Repr

/-- A call of the maintenance-timer capability (R259). -/
inductive MtEvent where
  /-- `MtSuspend()`. -/
  | suspend
  /-- `MtResume()`. -/
  | resume
  deriving DecidableEq, Repr

/-- What keeps the command port busy (R91): an accepted command (none for a reserved word) and the cycles it still takes,
counting the present one. -/
structure Executing where
  cmd : Option Instr
  left : Nat
  deriving DecidableEq, Repr

/-- A response (R95): its value, and in how many cycles from the present one it is on the port (0: in this cycle). -/
structure Response where
  value : Color
  wait : Nat
  deriving DecidableEq, Repr

/-- A command word of the host's program (R16, R17), and how many cycles in which the block is ready the host lets pass
(`cmd_valid = 0`) before it offers the word. -/
structure Offer where
  wait : Nat
  word : CmdWord
  deriving DecidableEq, Repr

/-- The inputs of one cycle other than the command port (R90): `rst = 1` with the straps, every other input then being
ignored (R290); or `rst = 0` with `PREEMPT` (R266) and the GPIO events of the environment's other owners (R264). -/
inductive EnvCycle where
  | reset (straps : Straps)
  | run (preempt : Bool) (others : List GpioEvent)
  deriving DecidableEq, Repr

/-- A GPIO output register `OUT[h]` (R42): which of its bits have a specified value, and the values of those bits. The other
bits are the environment's and have any value (R43). -/
structure PortReg where
  known : PortValue
  level : PortValue
  deriving DecidableEq, Repr

/-- A level of the data wire (R38): not driven, 0 or 1. -/
inductive WireLevel where
  | z
  | low
  | high
  deriving DecidableEq, Repr

/-- The state in one `clk` cycle. -/
structure State where
  /-- The parameters of R7: no step writes them. -/
  cfg : Config
  /-- The words the host has still to have accepted (R16). -/
  host : List Offer
  /-- The inputs of this cycle and the coming ones; beyond the list, `rst = 0`, `PREEMPT = 0` and no other owner's event. -/
  env : List EnvCycle
  /-- `N_LEDS` (R24). -/
  nLeds : BitVec 16
  /-- `ORDER` (R25). -/
  order : ChannelOrder
  /-- `BUF_VALID` (R27). -/
  bufValid : Bool
  /-- `BUF` (R28). -/
  buf : Memory
  /-- `BRIGHT` (R26). -/
  bright : BitVec 9
  /-- `FSM` (R29). -/
  fsm : Fsm
  /-- `PIN_ID` (R30). -/
  pinId : PinId
  /-- `PIN_HANDLE` (R31); none is the spec's "no value". -/
  pinHandle : Option Handle
  /-- `PIN_MASK` (R31); none is the spec's "no value". -/
  pinMask : Option PortValue
  /-- `SEQ` (R32). -/
  seq : Seq
  /-- `BYTE_PTR` (R33). -/
  bytePtr : BitVec 18
  /-- `BIT_IDX` (R34). -/
  bitIdx : BitVec 3
  /-- `CNT` (R35). -/
  cnt : BitVec 32
  /-- `LINE` (R36). -/
  line : Bool
  /-- `OE` (R37). -/
  oe : Bool
  /-- `CRIT` (R39). -/
  crit : Bool
  /-- `MT_SUSPEND` (R40). -/
  mtSuspend : Bool
  /-- `GLITCHED` (R41). -/
  glitched : Bool
  /-- The command that keeps the port busy (R91). -/
  executing : Option Executing
  /-- The response on its way to the port or on it (R95). -/
  rsp : Option Response
  /-- The GPIO events still to be issued, oldest first (R261). -/
  gpioPending : List GpioEvent
  /-- The port `gpio_ev` (R90): the event that takes effect in this cycle. -/
  gpioEv : Option GpioEvent
  /-- The maintenance-timer call that takes effect in this cycle (R259). -/
  mtEv : Option MtEvent
  /-- `OUT[h]` (R42), by handle; an unlisted register has no bit of a specified value. -/
  out : Table PortReg
  /-- `MODE[p]` (R42), by pin; an unlisted pin's mode has no specified value. -/
  mode : Table (Option PinMode)
  /-- The model's own (R266, log entry 10): the cycles left of a disturbed frame. -/
  disturbed : Option Nat
  /-- The model's own (log entry 10): the counter the free values are applied to. -/
  draws : Nat
  deriving DecidableEq, Repr

/-- Why the machine stops. -/
inductive Fault where
  /-- A buffer access at an address outside `0 .. NBYTES - 1` (R61: "a fault of the model"). Raised by `memRead` and
  `memWrite`; no command's rule issues one. Safe. -/
  | bufferRange (a : Nat)
  /-- `PIN_HANDLE` or `PIN_MASK` read while it has no value (R31: "reading it faults"). Raised by `boundPin`; no rule does so
  in a state that keeps R45 (e). Safe. -/
  | bindingNoValue
  /-- Another owner of the GPIO registers broke a duty of R264 (U11: "a violation is `fault`"). Raised by the cycle in which it
  writes. Safe. -/
  | gpioDutyBroken
  deriving DecidableEq, Repr

/-- Why a step gives no meaning. -/
inductive Refusal where
  /-- An instruction without a meaning yet, by its mnemonic. No arm of `exec` answers it. Safe. -/
  | notModelled (mnemonic : String)
  /-- The configuration is not well-formed (R8: "a model refuses"). Raised by every step. Safe. -/
  | illFormedConfiguration
  /-- A reset samples `CFG_ORDER = 3` (R99: "a model refuses it"). Raised by that cycle. Safe. -/
  | illFormedStraps
  deriving DecidableEq, Repr

/-- What a step or a meaning answers. -/
abbrev Answer := Host.Outcome State Fault Refusal

/-- Every state element at its reset value (R23, R290 to R293), with the parameters `c`, the straps `st`, and `o` the channel
order of the strap `CFG_ORDER`. The host has nothing to offer and every coming cycle is quiet. -/
def State.initial (c : Config) (st : Straps) (o : ChannelOrder) : State where
  cfg := c
  host := []
  env := []
  nLeds := if st.allocOk then st.n else 0
  order := o
  bufValid := st.allocOk
  buf := []
  bright := 0
  fsm := .unbound
  pinId := st.pin
  pinHandle := none
  pinMask := none
  seq := .idle
  bytePtr := 0
  bitIdx := 7
  cnt := 0
  line := false
  oe := false
  crit := false
  mtSuspend := false
  glitched := false
  executing := none
  rsp := none
  gpioPending := []
  gpioEv := none
  mtEv := none
  out := []
  mode := []
  disturbed := none
  draws := 0

/-- The machine in the first cycle after reset is released (R290), with the parameters and straps of the spec's own example
(DESIGN CHOICE, log entry 1). -/
def State.reset : State := State.initial Config.example95 Straps.example95 .grb

end Sys2Proof.Machine
end

