-- ==== Sys2Proof/Machine/Operands.lean ====
section
/-! DEFINITION. Operand forms and operand arithmetic: channel orders and offsets (R63, R99), pixel addresses (R62), the
brightness arithmetic (R171, R201, R203, R204), the symbol durations (R11, R133). -/

namespace Sys2Proof.Machine

open Sys2Proof

/-- The channel order of a code (R99); 3 is reserved. -/
def orderOfCode (c : BitVec 2) : Option ChannelOrder :=
  match c.toNat with
  | 0 => some .rgb
  | 1 => some .grb
  | 2 => some .brg
  | _ => none

/-- `rOff` (R63). -/
def rOff : ChannelOrder → Nat
  | .rgb => 0
  | .grb => 1
  | .brg => 1

/-- `gOff` (R63). -/
def gOff : ChannelOrder → Nat
  | .rgb => 1
  | .grb => 0
  | .brg => 2

/-- `bOff` (R63). -/
def bOff : ChannelOrder → Nat
  | .rgb => 2
  | .grb => 2
  | .brg => 0

/-- `base(i) = 3 * i` (R62). -/
def base (i : PixIndex) : Nat := 3 * i.toNat

/-- `NBYTES = 3 * N_LEDS` (R24). -/
def nBytes (s : State) : Nat := 3 * s.nLeds.toNat

/-- The validity and bounds check of a pixel command (R170): validity first, then the unsigned comparison of R68. -/
def pixelInRange (s : State) (i : PixIndex) : Bool := s.bufValid && decide (i < s.nLeds)

/-- `scaleW(c)` (R171) at the stored brightness `bright`. -/
def scaleW (bright : BitVec 9) (c : Byte) : Byte :=
  if bright = 0 then c else BitVec.ofNat 8 ((c.toNat * bright.toNat) >>> 8)

/-- `newStored = level + 1`, in 9 bits (R201). -/
def newStored (level : Byte) : BitVec 9 := level.setWidth 9 + 1

/-- The scale factor of the rescale (R203); the divisor is the old stored value, 0 forces 0. -/
def rescaleFactor (new old : BitVec 9) : Nat :=
  if old = 0 then 0 else ((new.toNat <<< 8) - 1) / old.toNat

/-- The per-byte transform of the rescale (R204). -/
def rescaleByte (scale : Nat) (x : Byte) : Byte := BitVec.ofNat 8 ((x.toNat * scale) >>> 8)

/-- `TH(b)` (R11). -/
def highTime (p : Profile) (b : Bool) : BitVec 32 := if b then p.t1h else p.t0h

/-- `TL(b)` (R11). -/
def lowTime (p : Profile) (b : Bool) : BitVec 32 := if b then p.t1l else p.t0l

end Sys2Proof.Machine
end

