-- ==== Sys2Proof/Machine/Ops.lean ====
section
/-! DEFINITION. The named operations: tables, the pixel buffer (R61), the pin table (R7), the GPIO binding (R261 to R264), the
critical section (R257, R258), responses (R95), reset (R290). -/

namespace Sys2Proof.Machine

open Sys2Proof

/-! ## Tables -/

/-- What the table holds for key `a`; `d` for an unlisted key. -/
def tableGet {β : Type} (d : β) : Table β → Nat → β
  | [], _ => d
  | c :: m, a => if c.1 = a then c.2 else tableGet d m a

/-- The table without key `a`. -/
def tableErase {β : Type} (m : Table β) (a : Nat) : Table β := m.filter fun c => c.1 != a

/-- The table with an entry put before the first greater key. -/
def tableInsert {β : Type} : Table β → Nat → β → Table β
  | [], a, v => [(a, v)]
  | c :: m, a, v => if a < c.1 then (a, v) :: c :: m else c :: tableInsert m a v

/-- The table with `v` at key `a`; the value an unlisted key reads as removes the entry. -/
def tableSet {β : Type} [DecidableEq β] (d : β) (m : Table β) (a : Nat) (v : β) : Table β :=
  if v = d then tableErase m a else tableInsert (tableErase m a) a v

/-- The canonical form: keys strictly rising, no entry equal to `d`. -/
def tableWf {β : Type} [DecidableEq β] (d : β) : Table β → Bool
  | [] => true
  | c :: m => (c.2 != d) && m.all (fun e => decide (c.1 < e.1)) && tableWf d m

/-! ## The pixel buffer -/

/-- The byte at an address; an unlisted address reads as 0 (R28). -/
def bufGet (m : Memory) (a : Nat) : Byte := tableGet (0 : Byte) m a

/-- The buffer with one byte written (R69: "a write changes only the byte written"). -/
def bufSet (m : Memory) (a : Nat) (v : Byte) : Memory := tableSet (0 : Byte) m a v

/-- The canonical form of the buffer's bytes. -/
def Memory.wf (m : Memory) : Bool := tableWf (0 : Byte) m

/-- `MemRead(a, 1)` (R61): defined only for `a < NBYTES`. -/
def memRead (s : State) (a : Nat) : Except Fault Byte :=
  if a < nBytes s then .ok (bufGet s.buf a) else .error (.bufferRange a)

/-- `MemWrite(a, 1, v)` (R61): defined only for `a < NBYTES`. -/
def memWrite (s : State) (a : Nat) (v : Byte) : Except Fault State :=
  if a < nBytes s then .ok { s with buf := bufSet s.buf a v } else .error (.bufferRange a)

/-- `BUF[p][i]` (R34): one bit of one byte. -/
def memBit (s : State) (p : Nat) (i : Nat) : Except Fault Bool :=
  match memRead s p with
  | .ok x => .ok (x.getLsbD i)
  | .error f => .error f

/-- The pass of SETBRT (R205): addresses `0` to `n - 1` in ascending order, each byte replaced by `f` of it. -/
def mapBytes (f : Byte → Byte) : Nat → Memory → Memory
  | 0, m => m
  | n + 1, m =>
    let m' := mapBytes f n m
    bufSet m' n (f (bufGet m' n))

/-- The answer of an operation that can fault. -/
def ofExcept : Except Fault State → Answer
  | .ok s => .next s
  | .error f => .fault f

/-! ## The pin table -/

/-- `Resolve(p)` (R7): the handle and mask of the first row for the pin; none if there is none. -/
def resolve (c : Config) (p : PinId) : Option (Handle × PortValue) :=
  (c.pins.find? fun r => r.pin == p).map fun r => (r.handle, r.mask)

/-- `PIN_HANDLE` and `PIN_MASK`; reading them while they have no value faults (R31, U12). -/
def boundPin (s : State) : Except Fault (Handle × PortValue) :=
  match s.pinHandle, s.pinMask with
  | some h, some m => .ok (h, m)
  | _, _ => .error .bindingNoValue

/-- `PIN_HANDLE <- h ; PIN_MASK <- m` (R222, R226). -/
def bindPin (h : Handle) (m : PortValue) (s : State) : State := { s with pinHandle := some h, pinMask := some m }

/-! ## The GPIO binding -/

/-- `v AND NOT m`. -/
def andNot (v m : PortValue) : PortValue := v ^^^ (v &&& m)

/-- `OUT[h]` of the environment's registers: no bit has a specified value unless listed (R43). -/
def portGet (o : Table PortReg) (h : Handle) : PortReg := tableGet ⟨0, 0⟩ o h

/-- `OUT[h]` written. -/
def portSet (o : Table PortReg) (h : Handle) (r : PortReg) : Table PortReg := tableSet ⟨0, 0⟩ o h r

/-- `MODE[p]`; none: no specified value (R43). -/
def modeGet (o : Table (Option PinMode)) (p : PinId) : Option PinMode := tableGet none o p.toNat

/-- `MODE[p]` written. -/
def modeSet (o : Table (Option PinMode)) (p : PinId) (m : Option PinMode) : Table (Option PinMode) :=
  tableSet none o p.toNat m

/-- The level of the bit `m` of `OUT[h]`; none: no specified value. -/
def outBit (o : Table PortReg) (h : Handle) (m : PortValue) : Option Bool :=
  let r := portGet o h
  if r.known &&& m = m then some (r.level &&& m != 0) else none

/-- The effect of an event on the GPIO space (R262, R263): `OUT[h] OR mask`, `OUT[h] AND NOT mask`, `MODE[p] <- m`. -/
def applyGpio (e : GpioEvent) (s : State) : State :=
  match e with
  | .mode p m => { s with mode := modeSet s.mode p (some m) }
  | .set h m =>
    let r := portGet s.out h
    { s with out := portSet s.out h { known := r.known ||| m, level := r.level ||| m } }
  | .clr h m =>
    let r := portGet s.out h
    { s with out := portSet s.out h { known := r.known ||| m, level := andNot r.level m } }

/-- What the event wrote has no specified value any more. -/
def forgetGpio (e : GpioEvent) (s : State) : State :=
  match e with
  | .mode p _ => { s with mode := modeSet s.mode p none }
  | .set h m | .clr h m =>
    let r := portGet s.out h
    { s with out := portSet s.out h { known := andNot r.known m, level := andNot r.level m } }

/-- Two events write the same pin's mode or a common bit of one register. -/
def gpioClash : GpioEvent → GpioEvent → Bool
  | .mode p _, .mode q _ => p == q
  | .set h m, .set k n | .set h m, .clr k n | .clr h m, .set k n | .clr h m, .clr k n => h == k && (m &&& n != 0)
  | _, _ => false

/-- The rule of a command or of the sequencer calls these events, in this order (R261). -/
def emit (es : List GpioEvent) (s : State) : State := { s with gpioPending := s.gpioPending ++ es }

/-- At most one event per cycle is issued (R90, R261): the oldest one still to be issued. -/
def issueGpio (s : State) : State :=
  match s.gpioPending with
  | [] => s
  | e :: es => applyGpio e { s with gpioPending := es, gpioEv := some e }

/-- An event of another owner (R264). Where the block's own event of the same cycle writes the same bit or mode, the spec gives
no order, and the result has no specified value (log entry 6). -/
def applyOther (s : State) (e : GpioEvent) : State :=
  match s.gpioEv with
  | none => applyGpio e s
  | some own => if gpioClash own e then forgetGpio own (applyGpio e s) else applyGpio e s

/-- The end of every cycle without reset: the block's own event is issued and the other owners' events take effect. -/
def closeCycle (others : List GpioEvent) (s : State) : State := others.foldl applyOther (issueGpio s)

/-- The duties of R264 (2) and (3) for one event of another owner: while the pin is bound it writes neither the mode of
`PIN_ID` nor the bit `PIN_MASK` of `OUT[PIN_HANDLE]`; while `CRIT = 1` it writes no bit of `OUT[PIN_HANDLE]`. DESIGN CHOICE
(log entry 6): the write is held against `FSM`, `CRIT` and the binding of the cycle in which the owner makes it, though it takes
effect in the next. -/
def keepsDuty (s : State) (e : GpioEvent) : Bool :=
  match e with
  | .mode p _ => s.fsm == .unbound || p != s.pinId
  | .set h m | .clr h m =>
    (s.pinHandle != some h) || (!s.crit && (s.fsm == .unbound || (m &&& s.pinMask.getD 0) == 0))

/-! ## The critical section and the maintenance timer -/

/-- Entering the critical section (R257), the block's nearest thing to taking an exception: nothing is saved. -/
def enterCritical (s : State) : State := { s with crit := true, mtSuspend := true, mtEv := some .suspend }

/-- Leaving the critical section (R258), the nearest thing to returning from one. -/
def leaveCritical (s : State) : State := { s with crit := false, mtSuspend := false, mtEv := some .resume }

/-- The end of a frame (R134, last arm): the one exit of R138. -/
def endFrame (s : State) : State := leaveCritical { s with seq := .idle, fsm := .ready }

/-! ## Responses and reset -/

/-- `respond(v)` (R11, R95). -/
def respond (v : Color) (s : State) : State := { s with rsp := some { value := v, wait := 0 } }

/-- A cycle with `rst = 1` (R290, R294): every state element gets its reset value from the straps of this cycle; no event is
issued; the host's words, which are no part of the block, stay. DESIGN CHOICE (log entry 18): R95 and R290 do not say what
becomes of a response when `rst` comes: one that still waits is dropped, one due in this cycle is on the port in it. The reset
values stand from the next cycle on, also while `rst` stays 1 (DEDUCED, log entry 12). -/
def resetCycle (st : Straps) (s : State) : Answer :=
  match orderOfCode st.order with
  | none => .refused .illFormedStraps
  | some o => .next { State.initial s.cfg st o with host := s.host, env := s.env.tail, draws := s.draws }

end Sys2Proof.Machine
end

