-- ==== Sys2Proof/Machine/Flags.lean ====
section
/-! DEFINITION. The block has no flags (R22). This file holds the one-bit and other outputs that are computed from the state:
the inputs of the present cycle, `cmd_ready` (R91), `rsp_valid` and `rsp_data` (R95), the wire (R38). -/

namespace Sys2Proof.Machine

open Sys2Proof

/-- The inputs of the present cycle; beyond the list, a quiet cycle. -/
def inputs (s : State) : EnvCycle :=
  match s.env with
  | [] => .run false []
  | e :: _ => e

/-- `rst` in this cycle. -/
def rstNow (s : State) : Bool :=
  match inputs s with
  | .reset _ => true
  | .run _ _ => false

/-- `PREEMPT` in this cycle; ignored while `rst = 1` (R290). -/
def preemptNow (s : State) : Bool :=
  match inputs s with
  | .reset _ => false
  | .run p _ => p

/-- The other owners' GPIO events of this cycle. -/
def othersNow (s : State) : List GpioEvent :=
  match inputs s with
  | .reset _ => []
  | .run _ os => os

/-- `cmd_ready` (R91): 0 during reset, during a frame, and while an accepted command keeps the port busy. -/
def cmdReady (s : State) : Bool := !rstNow s && s.seq == .idle && s.executing == none

/-- `cmd_valid` (R90): the host offers its next word. -/
def cmdValid (s : State) : Bool :=
  match s.host with
  | [] => false
  | o :: _ => o.wait == 0

/-- `rsp_valid` and `rsp_data` (R95): the response on the port in this cycle. -/
def rspNow (s : State) : Option Color :=
  match s.rsp with
  | some r => if r.wait = 0 then some r.value else none
  | none => none

/-- A BEGIN, END or SETPIN is executing, so that the wire is not specified (R38, R303). -/
def pinCommandExecuting (s : State) : Bool :=
  match s.executing with
  | some { cmd := some .beginBind, .. } | some { cmd := some .endBind, .. } | some { cmd := some (.setPin _), .. } => true
  | _ => false

/-- `WIRE` (R38): `Z` when `OE = 0`, else `LINE`; none where the spec does not specify it: while a BEGIN, END or SETPIN
executes, from a preempted cycle of a frame on, and in a run with `GLITCHED = 1` (R266). -/
def wire (s : State) : Option WireLevel :=
  if pinCommandExecuting s || s.glitched || (preemptNow s && s.seq != .idle) then none
  else if !s.oe then some .z
  else if s.line then some .high
  else some .low

/-- The numeric code of `FSM` (R29). -/
def fsmCode : Fsm → BitVec 2
  | .unbound => 0
  | .ready => 1
  | .transmitting => 2

/-- The numeric code of `SEQ` (R32). -/
def seqCode : Seq → BitVec 2
  | .idle => 0
  | .hi => 1
  | .lo => 2
  | .gap => 3

/-- The numeric code of `ORDER` (R99). -/
def orderCode : ChannelOrder → BitVec 2
  | .rgb => 0
  | .grb => 1
  | .brg => 2

end Sys2Proof.Machine
end

