-- ==== Sys2Proof/Machine/Encoder.lean ====
section
/-! DEFINITION. The protocol encoder: SHOW (R131), the sequencer step (R134), and the disturbed rest of a frame (R266). -/

namespace Sys2Proof.Machine

open Sys2Proof

/-- The start of the high phase of bit `i` of byte `p` (R131, R134): the line rises for `TH(b)` cycles. -/
def startBit (p i : Nat) (s : State) : Except Fault State := do
  let b ← memBit s p i
  let hm ← boundPin s
  .ok (emit [.set hm.1 hm.2] { s with line := true, seq := .hi, cnt := highTime s.cfg.profile b })

/-- The start of the low phase of the bit being sent (R134, arm HI): the line falls for `TL(b)` cycles. -/
def startLow (s : State) : Except Fault State := do
  let b ← memBit s s.bytePtr.toNat s.bitIdx.toNat
  let hm ← boundPin s
  .ok (emit [.clr hm.1 hm.2] { s with line := false, seq := .lo, cnt := lowTime s.cfg.profile b })

/-- The start of the reset gap (R131, R134): the line stays low for `TRES` cycles. -/
def startGap (s : State) : State := { s with seq := .gap, cnt := s.cfg.profile.tres }

/-- The bit after the one being sent (R134, arm LO): down to bit 0, then bit 7 of the next byte. -/
def nextBit (p i : Nat) : Nat × Nat := if 0 < i then (p, i - 1) else (p + 1, 7)

/-- The end of a bit's low phase (R134, arm LO): the next bit, or the gap after the last bit of the last byte. -/
def advanceBit (s : State) : Except Fault State :=
  let pi := nextBit s.bytePtr.toNat s.bitIdx.toNat
  let t := { s with bytePtr := BitVec.ofNat 18 pi.1, bitIdx := BitVec.ofNat 3 pi.2 }
  if pi.1 = nBytes s then .ok (startGap t) else startBit pi.1 pi.2 t

/-- The sequencer step (R134). -/
def sequencerStep (s : State) : Except Fault State :=
  if s.seq = .idle then .ok s
  else if 1 < s.cnt then .ok { s with cnt := s.cnt - 1 }
  else
    match s.seq with
    | .idle => .ok s
    | .hi => startLow s
    | .lo => advanceBit s
    | .gap => .ok (endFrame s)

/-- SHOW (R131): ignored unless the facade is `Ready` and the buffer exists; else the critical section is entered and the
frame starts with its first bit, or, for an empty buffer, with the gap (R141). -/
def execShow (s : State) : Answer :=
  if s.fsm ≠ .ready then .next s
  else if s.bufValid = false then .next s
  else
    let t := enterCritical { s with fsm := .transmitting, bytePtr := 0, bitIdx := 7 }
    if nBytes s = 0 then .next (startGap t) else ofExcept (startBit 0 7 t)

/-- The sequencer phase a frame phase stands for. -/
def seqOfPhase : FramePhase → Seq
  | .hi => .hi
  | .lo => .lo
  | .gap => .gap

/-- Where a disturbed cycle stands (R266, log entry 10): a free phase and position within what R33, R35 and R45 (d), (i) allow
of every state. `BYTE_PTR` is an address of the buffer, in the gap `NBYTES`; without a byte to send there is only the gap;
`CNT` is at least 1; `LINE` is 1 in the high phase only. -/
def disturbedPosition (d : Disturbance) (s : State) : State :=
  let q := if nBytes s = 0 then .gap else d.phase
  { s with
    seq := seqOfPhase q
    bytePtr := BitVec.ofNat 18 (if q = .gap then nBytes s else d.bytePtr.toNat % nBytes s)
    bitIdx := d.bitIdx
    cnt := if d.cnt = 0 then 1 else d.cnt
    line := d.line && q == .hi }

/-- One cycle of the disturbed rest of a frame, of which `n` cycles are left (R266): the event of each of its steps, the last
one included, and the level and the position are free values, and the frame ends in `Ready` with `LINE = 0`, `CRIT = 0`,
`MT_SUSPEND = 0`. DESIGN CHOICE (log entry 10): the event of the last step is free too, and takes effect in the first cycle of
`Ready`. -/
def disturbedStep (n : Nat) (s : State) : State :=
  let d := Config.disturbedCycle s.draws
  let t := emit d.event.toList { s with draws := s.draws + 1 }
  match n with
  | 0 => endFrame { t with line := false, disturbed := none }
  | k + 1 => disturbedPosition d { t with disturbed := some k }

/-- `PREEMPT = 1` in a cycle of a frame (R266): `GLITCHED <- 1`, and the rest of the frame, of a free length, is disturbed. -/
def disturb (s : State) : State :=
  disturbedStep (Config.disturbedCycles s.draws) { s with glitched := true, draws := s.draws + 1 }

end Sys2Proof.Machine
end

