-- ==== Sys2Proof/Machine/Cycle.lean ====
section
/-! DEFINITION. What one `clk` cycle does (R12, R13): which agent acts, and how the command port is served (R91). -/

namespace Sys2Proof.Machine

open Sys2Proof

/-- What happens in a cycle. -/
inductive Activity where
  /-- The configuration is not well-formed (R8). -/
  | illFormed
  /-- `rst = 1` (R290). -/
  | reset (st : Straps)
  /-- Another owner breaks a duty of R264. -/
  | dutyBroken
  /-- A cycle of a frame: `SEQ != IDLE` (R134), disturbed or not (R266). -/
  | frame (preempt : Bool)
  /-- An accepted command keeps the port busy (R91). -/
  | busy (e : Executing)
  /-- The port is ready and the host offers nothing; it waits on with the words `rest`. -/
  | idle (rest : List Offer)
  /-- The port accepts the word `w`; the host goes on with `rest` (R91). -/
  | accept (w : CmdWord) (rest : List Offer)
  deriving DecidableEq, Repr

/-- With the port ready: the host's next word is accepted, or the host lets the cycle pass (R17). -/
def hostActivity (s : State) : Activity :=
  match s.host with
  | [] => .idle []
  | o :: rest => if o.wait = 0 then .accept o.word rest else .idle ({ o with wait := o.wait - 1 } :: rest)

/-- Which of them this cycle is: reset has priority (R290), then the frame (R230), then the command in execution. -/
def activity (s : State) : Activity :=
  if s.cfg.wf = false then .illFormed
  else
    match inputs s with
    | .reset st => .reset st
    | .run preempt others =>
      if others.all (keepsDuty s) = false then .dutyBroken
      else if s.seq ≠ .idle then .frame preempt
      else
        match s.executing with
        | some e => .busy e
        | none => hostActivity s

/-- A response one cycle later: it is on the port for one cycle (R95). -/
def advanceRsp (r : Option Response) : Option Response :=
  match r with
  | some { value := v, wait := n + 1 } => some { value := v, wait := n }
  | _ => none

/-- The passing of a cycle: its inputs are used up, its events and its response are over. -/
def tick (s : State) : State :=
  { s with env := s.env.tail, gpioEv := none, mtEv := none, rsp := advanceRsp s.rsp }

/-- `LAT_CMD` of a command (R7), with the cycle of its response (R95); of a reserved word, the default (log entry 15). -/
def timingOf (c : Config) (cmd : Option Instr) : CmdTiming :=
  match cmd with
  | some i => (c.timing.lookup i).getD c.timingDefault
  | none => c.timingDefault

/-- How many cycles an accepted command takes, in the state it left: its `LAT_CMD` (R91), and no fewer than its events need.
DESIGN CHOICE (log entry 4): only a SETPIN with three events and `LAT_CMD` 1 takes more, namely 2: accepted every second cycle
it would call three events in two cycles, so R91 and R261 (one event per cycle) exclude each other for this value. -/
def latency (cmd : Option Instr) (s : State) : Nat := max (timingOf s.cfg cmd).busy (s.gpioPending.length - 1)

/-- An accepted command, or a reserved word, keeps the port busy from the next cycle on (R91), and its response comes in its
cycle (R95). A SHOW that started a frame takes no `LAT_CMD`: the frame itself keeps the port busy (R131). -/
def occupy (cmd : Option Instr) (s : State) : State :=
  if s.seq = .idle then
    { s with
      executing := some { cmd := cmd, left := latency cmd s }
      rsp := s.rsp.map fun r => { r with wait := (timingOf s.cfg cmd).rsp - 1 } }
  else s

/-- The state in which an accepted command executes: the cycle passed, the word taken from the host's list. -/
def taken (rest : List Offer) (s : State) : State := { tick s with host := rest }

/-- The end of the cycle that accepted `cmd`, none being a reserved word. -/
def closeAccept (cmd : Option Instr) (others : List GpioEvent) (a : Answer) : Answer :=
  match a with
  | .next u => .next (closeCycle others (occupy cmd u))
  | .fault f => .fault f
  | .refused r => .refused r

/-- A cycle that accepts a word: a command executes whole (R69); a reserved word does nothing (R96, log entry 7). -/
def acceptCycle (run : Instr → State → Answer) (w : CmdWord) (rest : List Offer) (s : State) : Answer :=
  match decode w with
  | .command i => closeAccept (some i) (othersNow s) (run i (taken rest s))
  | .reserved _ => closeAccept none (othersNow s) (.next (taken rest s))

/-- A cycle of a frame (R134, R266). -/
def frameCycle (preempt : Bool) (s : State) : Answer :=
  match s.disturbed with
  | some n => .next (closeCycle (othersNow s) (disturbedStep n (tick s)))
  | none =>
    if preempt then .next (closeCycle (othersNow s) (disturb (tick s)))
    else
      match sequencerStep (tick s) with
      | .ok u => .next (closeCycle (othersNow s) u)
      | .error f => .fault f

/-- The port is free again after the last of the command's cycles (R91). -/
def release (e : Executing) (s : State) : State :=
  { s with executing := if 1 < e.left then some { e with left := e.left - 1 } else none }

/-- A cycle in which an accepted command keeps the port busy. -/
def busyCycle (e : Executing) (s : State) : Answer := .next (release e (closeCycle (othersNow s) (tick s)))

/-- A cycle in which nothing is accepted. -/
def idleCycle (rest : List Offer) (s : State) : Answer := .next (closeCycle (othersNow s) (taken rest s))

/-- One cycle, with `run` the meanings of the commands. -/
def cycle (run : Instr → State → Answer) (s : State) : Answer :=
  match activity s with
  | .illFormed => .refused .illFormedConfiguration
  | .reset st => resetCycle st s
  | .dutyBroken => .fault .gpioDutyBroken
  | .frame preempt => frameCycle preempt s
  | .busy e => busyCycle e s
  | .idle rest => idleCycle rest s
  | .accept w rest => acceptCycle run w rest s

/-- The word placed where the very next cycle accepts it: first in the host's list and offered at once, in a quiet cycle, with
no earlier command keeping the port busy. (During a frame the block accepts nothing, R230.) -/
def offerNext (w : CmdWord) (s : State) : State :=
  { s with host := { wait := 0, word := w } :: s.host, env := .run false [] :: s.env, executing := none }

end Sys2Proof.Machine
end

