-- ==== Sys2Proof/Machine/Brightness.lean ====
section
/-! DEFINITION. The command of the brightness scaler: SETBRT (42_brightness.md). -/

namespace Sys2Proof.Machine

open Sys2Proof

/-- SETBRT (R200): nothing on an inert object (R208) or for the value already stored (R202); else every byte of the buffer is
rescaled (R203, R204) and then `BRIGHT` written (R205). -/
def execSetBrt (level : Byte) (s : State) : Answer :=
  let new := newStored level
  if s.bufValid = true ∧ new ≠ s.bright then
    .next { s with
      buf := mapBytes (rescaleByte (rescaleFactor new s.bright)) (nBytes s) s.buf
      bright := new }
  else .next s

end Sys2Proof.Machine
end

