-- ==== Sys2Proof/Machine/Facade.lean ====
section
/-! DEFINITION. The commands of the driver facade: BEGIN, END, SETPIN (43_facade.md). -/

namespace Sys2Proof.Machine

open Sys2Proof

/-- BEGIN (R222, R223): binds the pin, output mode, line low, whatever the facade state; ignored if the pin does not resolve
(R228). -/
def execBegin (s : State) : Answer :=
  match resolve s.cfg s.pinId with
  | none => .next s
  | some (h, m) =>
    .next (emit [.mode s.pinId .output, .clr h m] (bindPin h m { s with oe := true, line := false, fsm := .ready }))

/-- END (R224, R225): releases the pin to input mode; the mode event is skipped if the pin does not resolve (R228). -/
def execEnd (s : State) : Answer :=
  let t := { s with oe := false, fsm := .unbound }
  match resolve s.cfg s.pinId with
  | none => .next t
  | some _ => .next (emit [.mode s.pinId .input] t)

/-- SETPIN (R226): in `Ready` releases the old pin and binds the new one, driven low (also when they are the same, R232);
otherwise only records it (R227); ignored if the new pin does not resolve (R228). -/
def execSetPin (new : PinId) (s : State) : Answer :=
  match resolve s.cfg new with
  | none => .next s
  | some (h, m) =>
    if s.fsm = .ready then
      .next (emit [.mode s.pinId .input, .mode new .output, .clr h m] (bindPin h m { s with pinId := new, line := false }))
    else .next { s with pinId := new }

end Sys2Proof.Machine
end

