-- ==== Sys2Proof/Machine/Pixel.lean ====
section
/-! DEFINITION. The commands of the pixel buffer: SETPIX3, SETPIXP, GETPIX, NUMPIX, COLOR (41_pixel_buffer.md). -/

namespace Sys2Proof.Machine

open Sys2Proof

/-- The common part of SETPIX3 and SETPIXP (R172): three scaled bytes at the channels' offsets; nothing for a pixel that is
out of range or a buffer that does not exist (R170). -/
def putPixel (i : PixIndex) (r g b : Byte) (s : State) : Except Fault State :=
  if pixelInRange s i then do
    let a := base i
    let s1 ← memWrite s (a + rOff s.order) (scaleW s.bright r)
    let s2 ← memWrite s1 (a + gOff s.order) (scaleW s.bright g)
    memWrite s2 (a + bOff s.order) (scaleW s.bright b)
  else .ok s

/-- The colour GETPIX answers (R174): the three stored bytes repacked, 0 out of range. -/
def pixelColor (i : PixIndex) (s : State) : Except Fault Color :=
  if pixelInRange s i then do
    let a := base i
    let r ← memRead s (a + rOff s.order)
    let g ← memRead s (a + gOff s.order)
    let b ← memRead s (a + bOff s.order)
    .ok (packColor r g b)
  else .ok 0

/-- SETPIX3 (R172). -/
def execSetPix3 (i : PixIndex) (r g b : Byte) (s : State) : Answer := ofExcept (putPixel i r g b s)

/-- SETPIXP (R173): the colour unpacked (R97), then as SETPIX3. -/
def execSetPixP (i : PixIndex) (c : Color) (s : State) : Answer :=
  ofExcept (putPixel i (redOf c) (greenOf c) (blueOf c) s)

/-- GETPIX (R174): one response, no state written. -/
def execGetPix (i : PixIndex) (s : State) : Answer :=
  match pixelColor i s with
  | .ok c => .next (respond c s)
  | .error f => .fault f

/-- NUMPIX (R175): answers `zext_24(N_LEDS)`. -/
def execNumPix (s : State) : Answer := .next (respond (s.nLeds.setWidth 24) s)

/-- COLOR (R176): answers `(r << 16) | (g << 8) | b`. -/
def execColor (r g b : Byte) (s : State) : Answer := .next (respond (packColor r g b) s)

end Sys2Proof.Machine
end

