-- ==== Sys2Proof/Machine/Dispatch.lean ====
section
/-! DEFINITION. Which meaning each command has: one arm per constructor of Instr. -/

namespace Sys2Proof.Machine
open Sys2Proof

def exec (i : Instr) (s : State) : Host.Outcome State Fault Refusal :=
  match i with
  | .beginBind => Sys2Proof.Machine.execBegin s
  | .endBind => Sys2Proof.Machine.execEnd s
  | .setPin pin => Sys2Proof.Machine.execSetPin pin s
  | .setPix3 index r g b => Sys2Proof.Machine.execSetPix3 index r g b s
  | .setPixP index c => Sys2Proof.Machine.execSetPixP index c s
  | .getPix index => Sys2Proof.Machine.execGetPix index s
  | .numPix => Sys2Proof.Machine.execNumPix s
  | .setBrt level => Sys2Proof.Machine.execSetBrt level s
  | .showFrame => Sys2Proof.Machine.execShow s
  | .color r g b => Sys2Proof.Machine.execColor r g b s

end Sys2Proof.Machine
end

