-- ==== Sys2Proof/Machine/Step.lean ====
section
/-! DEFINITION. One step: one `clk` cycle (R12). -/

namespace Sys2Proof.Machine

open Sys2Proof

/-- One `clk` cycle of the block (R12, R13). -/
def step (s : State) : Host.Outcome State Fault Refusal := cycle exec s

/-- `s` with the word of bits `w`, of which `nbits` are given, offered so that the next cycle accepts it. -/
def State.withFetchWord (s : State) (nbits w : Nat) : State := offerNext (BitVec.ofNat 44 (w % 2 ^ nbits)) s

end Sys2Proof.Machine
end

