-- ==== Sys2Proof/Safety.lean ====
section
/-! DEFINITION. What counts as a safe run and a finished one (R16), the invariants of R45, and the waveform of a frame (R135),
in the terms the statements use. -/

namespace Sys2Proof.Machine

open Sys2Proof

/-! ## The end of a run -/

/-- The run is over (R16): every word has been accepted, the port is ready, no frame is in progress. -/
def State.runOver (s : State) : Bool := s.host.isEmpty && cmdReady s && s.seq == .idle

/-- A faulted state (R16, R266). -/
def State.faulted (s : State) : Bool := s.glitched

/-- A final state (R16): over, not faulted, and never while `Transmitting`. -/
def State.final (s : State) : Bool := s.runOver && !s.faulted && s.fsm != .transmitting

/-! ## The inputs a statement can allow -/

/-- The conditions under which this cycle accepts the word `w` and leaves the host the words `rest` (R91): a well-formed
configuration, `cmd_ready` and `cmd_valid` with the word, the other owners keeping the duties of R264. -/
structure Accepts (s : State) (w : CmdWord) (rest : List Offer) : Prop where
  cfg_wf : s.cfg.wf = true
  ready : cmdReady s = true
  offered : s.host = { wait := 0, word := w } :: rest
  duty : (othersNow s).all (keepsDuty s) = true

/-- The conditions under which this cycle is one without reset in which nothing outside the block goes wrong: a well-formed
configuration, `rst = 0`, the other owners keeping the duties of R264. -/
structure Runs (s : State) : Prop where
  cfg_wf : s.cfg.wf = true
  no_reset : rstNow s = false
  duty : (othersNow s).all (keepsDuty s) = true

/-- An event of another owner that touches neither the pin `PIN_ID` nor the register `PIN_HANDLE`: it keeps R264 whatever the
facade does with that binding. -/
def harmless (s : State) (e : GpioEvent) : Bool :=
  match e with
  | .mode p _ => p != s.pinId
  | .set h _ | .clr h _ => s.pinHandle != some h

/-- An event of another owner that touches no pin and no register of the pin table: it keeps R264 whatever pin is bound. -/
def offTable (c : Config) (e : GpioEvent) : Bool :=
  match e with
  | .mode p _ => c.pins.all fun r => r.pin != p
  | .set h _ | .clr h _ => c.pins.all fun r => r.handle != h

/-- A cycle without reset, with or without `PREEMPT`, in which the other owners' events keep off the pin table. -/
def detached (c : Config) (e : EnvCycle) : Bool :=
  match e with
  | .reset _ => false
  | .run _ os => os.all (offTable c)

/-- A cycle without reset, in which the other owners' events are harmless. -/
def noReset (s : State) (c : EnvCycle) : Bool :=
  match c with
  | .reset _ => false
  | .run _ os => os.all (harmless s)

/-- A cycle without reset and without `PREEMPT` (R135: "let `PREEMPT` be 0 and `rst` be 0"), in which the other owners' events
are harmless. -/
def undisturbed (s : State) (c : EnvCycle) : Bool :=
  match c with
  | .reset _ => false
  | .run p os => !p && os.all (harmless s)

/-! ## The invariants -/

/-- R45 (a) to (e) and (i), with what the ports add: the facade, the sequencer, the outputs and the binding agree, in disturbed
frames too. -/
structure ControlInv (s : State) : Prop where
  /-- R45 (a). -/
  frame_iff : s.fsm = .transmitting ↔ s.seq ≠ .idle
  /-- R45 (b). -/
  oe_iff : s.oe = true ↔ s.fsm ≠ .unbound
  /-- R45 (c). -/
  crit_iff : s.crit = true ↔ s.fsm = .transmitting
  /-- R45 (c). -/
  mt_eq : s.mtSuspend = s.crit
  /-- R45 (d). -/
  line_hi : s.line = true → s.seq = .hi
  /-- R45 (e). -/
  bound : s.fsm ≠ .unbound → ∃ h m, resolve s.cfg s.pinId = some (h, m) ∧ s.pinHandle = some h ∧ s.pinMask = some m
  /-- R45 (i). -/
  bytePtr_lt : s.seq = .hi ∨ s.seq = .lo → s.bytePtr.toNat < nBytes s
  /-- R33: in the gap all bytes are sent. -/
  gap_ptr : s.seq = .gap → s.bytePtr.toNat = nBytes s
  /-- R45 (i). -/
  cnt_pos : s.seq ≠ .idle → 1 ≤ s.cnt.toNat
  /-- R266: only a frame is disturbed, and the mark says so. -/
  disturbed_frame : s.disturbed ≠ none → s.seq ≠ .idle ∧ s.glitched = true
  /-- R91, R230: during a frame no command executes. -/
  frame_port : s.seq ≠ .idle → s.executing = none
  /-- R261: when no command executes, every event is issued. -/
  events_out : s.executing = none → s.gpioPending = []
  /-- R91: an executing command still takes at least the present cycle. -/
  busy_pos : ∀ e, s.executing = some e → 1 ≤ e.left
  /-- R261, R38: an executing command still takes enough cycles for its events. -/
  busy_events : ∀ e, s.executing = some e → s.gpioPending.length ≤ e.left
  /-- R95: a response is on the port not later than `cmd_ready` rises. -/
  rsp_wait : ∀ r, s.rsp = some r → r.wait ≤ (s.executing.map Executing.left).getD 0

/-- R45 (f) and the canonical form of the buffer: every listed byte has an address of the buffer (R28). -/
structure BufferInv (s : State) : Prop where
  /-- R45 (f). -/
  inert : s.bufValid = false → s.nLeds = 0
  canonical : Memory.wf s.buf = true
  in_range : ∀ c ∈ s.buf, c.1 < nBytes s

/-- R45 (g) and (h). -/
structure BrightnessInv (s : State) : Prop where
  /-- R45 (g). -/
  bright_le : s.bright.toNat ≤ 256
  /-- R45 (h), R209. -/
  byte_le : s.bright ≠ 0 → ∀ a, a < nBytes s → (bufGet s.buf a).toNat ≤ (255 * s.bright.toNat) >>> 8

/-- R36: while the pin is bound, `LINE` is the level of the bit `PIN_MASK` of `OUT[PIN_HANDLE]`; while events of a BEGIN or
SETPIN are still to be issued, the last of them drives that bit low and `LINE` is 0. The clauses are about runs without a
disturbed frame (R41). -/
structure PinLevelInv (s : State) : Prop where
  settled : s.glitched = false → s.fsm ≠ .unbound → s.gpioPending = [] →
    ∀ h m, s.pinHandle = some h → s.pinMask = some m → outBit s.out h m = some s.line
  settling : s.glitched = false → s.fsm ≠ .unbound → s.gpioPending ≠ [] →
    s.line = false ∧ ∀ h m, s.pinHandle = some h → s.pinMask = some m → s.gpioPending.getLast? = some (.clr h m)

/-- The state once the events still to be issued have taken effect (R261). -/
def drained (s : State) : State := s.gpioPending.foldl (fun t e => applyGpio e t) s

/-- R37, R262: while the pin is bound, its mode is output once the events still to be issued have taken effect. (In `Unbound`
the spec ties no mode to `PIN_ID`: after reset the modes have no specified value, and SETPIN only records the pin.) About runs
without a disturbed frame (R41). -/
def PinModeInv (s : State) : Prop :=
  s.glitched = false → s.fsm ≠ .unbound → modeGet (drained s).mode s.pinId = some .output

/-! ## The waveform of a frame -/

/-- The bits of the buffer in wire order (R135): ascending address (R64), most significant bit first (R65). -/
def frameBits (s : State) : List Bool :=
  (List.range (nBytes s)).flatMap fun a => (List.range 8).map fun j => (bufGet s.buf a).getLsbD (7 - j)

/-- What a cycle shows of a frame: `LINE` and the GPIO event that takes effect. -/
abbrev WaveCycle := Bool × Option GpioEvent

/-- A run of `n + 1` cycles at a level, its first cycle with the event that starts it. -/
def phaseWave (level : Bool) (e : GpioEvent) (n : Nat) : List WaveCycle :=
  (level, some e) :: List.replicate (n - 1) (level, none)

/-- The symbol of a bit (R100): `H^TH(b) L^TL(b)`, with the set and the clear that start its phases (R137). -/
def bitWave (p : Profile) (h : Handle) (m : PortValue) (b : Bool) : List WaveCycle :=
  phaseWave true (.set h m) (highTime p b).toNat ++ phaseWave false (.clr h m) (lowTime p b).toNat

/-- The waveform of the frame of this buffer (R102, R135, R137): the symbols of its bits, then `L^TRES` without an event. -/
def frameWave (s : State) (h : Handle) (m : PortValue) : List WaveCycle :=
  (frameBits s).flatMap (bitWave s.cfg.profile h m) ++ List.replicate s.cfg.profile.tres.toNat (false, none)

/-- The duration `D` of the frame of this buffer (R136), `O` counting its 1 bits. -/
def frameDuration (s : State) : Nat :=
  let p := s.cfg.profile
  let o := (frameBits s).count true
  let z := 8 * nBytes s - o
  z * (p.t0h.toNat + p.t0l.toNat) + o * (p.t1h.toNat + p.t1l.toNat) + p.tres.toNat

/-- The wire level of a driven line (R38). -/
def levelOf (line : Bool) : WireLevel := if line then .high else .low

end Sys2Proof.Machine
end

