-- ==== Sys2Proof/Certificates/Slice0/Obligations.lean ====
section
/-! DEFINITION. The statements for the provers, by the files of the spec. Each docstring names the rules it formalises. -/

open Sys2Proof Sys2Proof.Machine

/-! ## 30_encoding.md -/

/-- R92, R93: words written out from the spec's encodings (95_test_vectors.md, V-ENC) decode to the commands they stand for. -/
def Obligations.SpecWordsDecode : Prop :=
  decode 0x10000000000 = .command .beginBind ∧ decode 0x20000000000 = .command .endBind ∧
  decode 0x30000000005 = .command (.setPin 5) ∧ decode 0x4FFFF010203 = .command (.setPix3 65535 1 2 3) ∧
  decode 0x5000000FF00 = .command (.setPixP 0 0x00FF00) ∧ decode 0x60001000000 = .command (.getPix 1) ∧
  decode 0x70000000000 = .command .numPix ∧ decode 0x8000000007F = .command (.setBrt 127) ∧
  decode 0x90000000000 = .command .showFrame ∧ decode 0xA000000FF00 = .command (.color 0 255 0) ∧
  decode 0x00000000000 = .reserved 0 ∧ decode 0xB0000000000 = .reserved 0xB ∧ decode 0xF0000000000 = .reserved 0xF

/-- R92, R93, R98: encoding a command and decoding the word gives the command back, with every operand at every value. -/
def Obligations.DecodeEncodeAgree : Prop := ∀ i : Instr, decode (encode i) = .command i

/-- R107: the decoder is total; the opcodes 0x1 to 0xA give the command with that opcode, every other "reserved"; decode then
encode is the identity on canonical words. -/
def Obligations.DecoderIsTotal : Prop :=
  (∀ w : CmdWord,
    if 1 ≤ (opOf w).toNat ∧ (opOf w).toNat ≤ 10 then ∃ i, decode w = .command i ∧ opcode i = opOf w
    else decode w = .reserved (opOf w)) ∧
  ∀ (w : CmdWord) (i : Instr), canonical w = true → decode w = .command i → encode i = w

/-- R94: the bits a command does not use are ignored, by the decoder and by the cycle that accepts the word, its port timing
included; the encoder leaves them 0; for SETPIN and SETBRT they are `IDX` and `DATA[23:8]`. -/
def Obligations.UnusedBitsIgnored : Prop :=
  (∀ w v : CmdWord, opOf w = opOf v → (w ^^^ v) &&& ~~~(unusedBits (opOf w)) = 0 →
    decode w = decode v ∧
    ∀ (s : State) (rest : List Offer), cmdReady s = true →
      step { s with host := { wait := 0, word := w } :: rest } = step { s with host := { wait := 0, word := v } :: rest }) ∧
  (∀ i : Instr, canonical (encode i) = true) ∧
  ∀ w : CmdWord, opOf w = 3 ∨ opOf w = 8 →
    (canonical w = true ↔ idxOf w = 0 ∧ redOf (dataOf w) = 0 ∧ greenOf (dataOf w) = 0)

/-- R97: the packed colour is `(r << 16) | (g << 8) | b`, and unpacking is the inverse. -/
def Obligations.PackedColourLayout : Prop :=
  (∀ r g b : Byte,
    (packColor r g b).toNat = (r.toNat <<< 16) ||| (g.toNat <<< 8) ||| b.toNat ∧
    redOf (packColor r g b) = r ∧ greenOf (packColor r g b) = g ∧ blueOf (packColor r g b) = b) ∧
  ∀ c : Color, packColor (redOf c) (greenOf c) (blueOf c) = c

/-! ## 70_reset_and_hazards.md, 10_state.md: reset -/

/-- R290 to R294, R23: a cycle with `rst = 1` accepts nothing (`cmd_ready = 0`) and leaves every state element at its reset
value, from the straps of that cycle, in whatever state it comes; no event is issued. THE MODEL'S CHOICES: the reset values
stand in the next cycle also while `rst` stays 1 (log entry 12); the host's words stay (log entry 2); a waiting response is
dropped (log entry 18). -/
def Obligations.ResetCycleGivesResetValues : Prop :=
  ∀ (s : State) (st : Straps) (o : ChannelOrder),
    s.cfg.wf = true → inputs s = .reset st → orderOfCode st.order = some o →
    cmdReady s = false ∧
    ∃ t, step s = .next t ∧
      t.nLeds = (if st.allocOk then st.n else 0) ∧ t.order = o ∧ t.bufValid = st.allocOk ∧ (∀ a, bufGet t.buf a = 0) ∧
      t.bright = 0 ∧ t.fsm = .unbound ∧ t.pinId = st.pin ∧ t.pinHandle = none ∧ t.pinMask = none ∧
      t.seq = .idle ∧ t.bytePtr = 0 ∧ t.bitIdx = 7 ∧ t.cnt = 0 ∧ t.line = false ∧ t.oe = false ∧
      t.crit = false ∧ t.mtSuspend = false ∧ t.glitched = false ∧
      t.gpioEv = none ∧ t.gpioPending = [] ∧ t.mtEv = none ∧ t.rsp = none ∧ t.executing = none ∧
      t.host = s.host ∧ t.cfg = s.cfg

/-- R8 (a) to (c) with the ranges of R7 and R95: what a well-formed configuration is; R8, R99: every step of a machine whose
configuration is not well-formed is refused, and so is a reset with `CFG_ORDER = 3`; the codes of the channel orders, and the
default. THE MODEL'S CHOICES (log entry 16): R7's ranges and R95's bounds count as well-formedness, every step refuses, and the
reset cycle that samples the straps refuses code 3. -/
def Obligations.IllFormedConfigurationRefused : Prop :=
  (∀ c : Config, c.wf = true ↔
    0 < c.fClk ∧ c.profile.tagHz = c.fClk ∧ c.profile.t0h.toNat < c.profile.t1h.toNat ∧ 1 ≤ c.profile.t0h.toNat ∧
    1 ≤ c.profile.t0l.toNat ∧ 1 ≤ c.profile.t1h.toNat ∧ 1 ≤ c.profile.t1l.toNat ∧ 1 ≤ c.profile.tres.toNat ∧
    0 < c.portW ∧ (∀ r ∈ c.pins, ∃ j, j < c.portW ∧ r.mask = 2 ^ j) ∧
    ∀ t : CmdTiming, t = c.timingDefault ∨ (∃ i, (i, t) ∈ c.timing) → 1 ≤ t.busy ∧ 1 ≤ t.rsp ∧ t.rsp ≤ t.busy + 1) ∧
  (∀ s : State, s.cfg.wf = false → step s = .refused .illFormedConfiguration) ∧
  (∀ (s : State) (st : Straps), s.cfg.wf = true → inputs s = .reset st → st.order = 3 →
    step s = .refused .illFormedStraps) ∧
  orderOfCode 0 = some .rgb ∧ orderOfCode 1 = some .grb ∧ orderOfCode 2 = some .brg ∧ orderOfCode 3 = none ∧
  ∀ n pin ok, ({ n := n, pin := pin, allocOk := ok } : Straps).order = 1

/-- `State.reset` is the state R23 gives for the straps of the spec's own example (MODEL'S CHOICE, log entry 1), in which a
command can be accepted. -/
def Obligations.StateResetIsReady : Prop :=
  State.reset = State.initial Config.example95 Straps.example95 .grb ∧ State.reset.cfg.wf = true ∧
  orderOfCode Straps.example95.order = some .grb ∧ Straps.example95.wf = true ∧
  cmdReady State.reset = true ∧ State.reset.fsm = .unbound ∧ State.reset.bright = 0 ∧ State.reset.bitIdx = 7

/-- R45, R36, R37: every invariant holds after reset, whatever the parameters and the straps. -/
def Obligations.ResetMeetsInvariants : Prop :=
  ∀ (c : Config) (st : Straps) (o : ChannelOrder),
    ControlInv (State.initial c st o) ∧ BufferInv (State.initial c st o) ∧ BrightnessInv (State.initial c st o) ∧
    PinLevelInv (State.initial c st o) ∧ PinModeInv (State.initial c st o)

/-! ## 30_encoding.md, 00_scope.md: the command port and the cycle -/

/-- A step runs the decoded command: the cycle that accepts a word which decodes to `i` runs `exec i` on the state with the
cycle passed and the word taken (`taken`), then marks the port busy (`occupy`) and ends the cycle (`closeCycle`). -/
def Obligations.StepRunsDecodedCommand : Prop :=
  ∀ (s : State) (w : CmdWord) (rest : List Offer) (i : Instr),
    Accepts s w rest → decode w = .command i → i.wf = true →
    step s =
      match exec i (taken rest s) with
      | .next u => .next (closeCycle (othersNow s) (occupy (some i) u))
      | .fault f => .fault f
      | .refused r => .refused r

/-- R96: an accepted reserved word changes no state element, gives no response and no GPIO event; OUT and MODE follow the other
owners' events only. THE MODEL'S CHOICES: the word takes the hardware's meaning (log entry 7) and keeps the port busy for its
`LAT_CMD` cycles (log entry 15). -/
def Obligations.ReservedWordDoesNothing : Prop :=
  ∀ (s : State) (w : CmdWord) (rest : List Offer) (op : BitVec 4),
    Accepts s w rest → decode w = .reserved op → ControlInv s →
    ∃ t, step s = .next t ∧
      t = closeCycle (othersNow s) { s with
        host := rest, env := s.env.tail, executing := some { cmd := none, left := (timingOf s.cfg none).busy },
        rsp := none, gpioEv := none, mtEv := none } ∧
      t = { s with
        host := rest, env := s.env.tail, executing := t.executing, rsp := none, gpioEv := none, mtEv := none,
        out := t.out, mode := t.mode }

/-- R91, R230: the handshake. A word is taken exactly when `cmd_valid` and `cmd_ready` are 1, one per cycle and in order; else
every word is still there. `cmd_ready` is 0 in reset, while `Transmitting`, and while an accepted command executes. -/
def Obligations.HandshakeTakesOneWord : Prop :=
  ∀ s t : State, ControlInv s → step s = .next t →
    t.host.map Offer.word =
      (if cmdReady s = true ∧ cmdValid s = true then (s.host.map Offer.word).tail else s.host.map Offer.word) ∧
    (cmdReady s = true ↔ rstNow s = false ∧ s.fsm ≠ .transmitting ∧ s.executing = none)

/-- R91: an accepted command that starts no frame keeps the port busy for its `LAT_CMD` cycles, and then the port is ready
again. The one exception is a SETPIN in `Ready` with a pin that resolves and `LAT_CMD` 1, which takes 2 (THE MODEL'S CHOICE, log
entry 4: R91 and R261 exclude each other there). -/
def Obligations.PortBusyForLatency : Prop :=
  ∀ (s : State) (w : CmdWord) (rest : List Offer) (i : Instr) (u : State),
    Accepts s w rest → decode w = .command i → ControlInv s → (∀ c ∈ s.env, detached s.cfg c = true) →
    exec i (taken rest s) = .next u → u.seq = .idle →
    (s.fsm ≠ .ready ∨ (∀ p, i = .setPin p → resolve s.cfg p = none) ∨ 2 ≤ (timingOf s.cfg (some i)).busy →
      latency (some i) u = (timingOf s.cfg (some i)).busy) ∧
    (∀ p, s.fsm = .ready → i = .setPin p → resolve s.cfg p ≠ none → (timingOf s.cfg (some i)).busy = 1 →
      latency (some i) u = 2) ∧
    (∀ n, n < latency (some i) u → ∃ t, core.run (n + 1) s = .next t ∧ cmdReady t = false ∧ t.host = rest) ∧
    ∃ t, core.run (latency (some i) u + 1) s = .next t ∧ cmdReady t = true ∧ t.host = rest

/-- R95: the response of an accepted GETPIX, NUMPIX or COLOR is on the port for one cycle, after the acceptance and not later
than `cmd_ready` rises; which cycle it is, is a parameter (THE MODEL'S CHOICE, log entry 3). -/
def Obligations.ResponseOnPortOnce : Prop :=
  ∀ (s : State) (w : CmdWord) (rest : List Offer) (i : Instr) (u : State) (v : Color),
    Accepts s w rest → decode w = .command i → ControlInv s → (∀ c ∈ s.env, detached s.cfg c = true) →
    exec i (taken rest s) = .next u → u.rsp = some { value := v, wait := 0 } → u.seq = .idle →
    (∃ i0, i = .getPix i0) ∨ i = .numPix ∨ (∃ r g b, i = .color r g b) →
    ∃ d, 1 ≤ d ∧ d ≤ (timingOf s.cfg (some i)).busy + 1 ∧
      ∀ n, n ≤ (timingOf s.cfg (some i)).busy →
        ∃ t, core.run (n + 1) s = .next t ∧ rspNow t = if n + 1 = d then some v else none

/-- R261: while an accepted command keeps the port busy, each cycle issues the oldest of its events still to be issued, at
most one, with its effect and that of the other owners' events on OUT and MODE (`closeCycle`; R262, R263), and counts its cycles
down; the port is free after the last of them (R91). In which of its cycles a command issues its events is THE MODEL'S CHOICE
(log entry 4). -/
def Obligations.BusyCycleIssuesOldestEvent : Prop :=
  ∀ (s : State) (e : Executing), Runs s → s.seq = .idle → s.executing = some e →
    ∃ t, step s = .next t ∧ t.gpioEv = s.gpioPending.head? ∧ t.gpioPending = s.gpioPending.tail ∧
      t.executing = (if 1 < e.left then some { e with left := e.left - 1 } else none) ∧
      t = { closeCycle (othersNow s) (tick s) with executing := t.executing } ∧
      t = { s with
        env := s.env.tail, executing := t.executing, rsp := advanceRsp s.rsp, gpioPending := t.gpioPending,
        gpioEv := t.gpioEv, mtEv := none, out := t.out, mode := t.mode }

/-- R134, R95, R72, R91: a cycle without reset in which no frame is in progress, no command executes and no word is offered
changes nothing of the block: no response, no event, no call; the host's next word is one cycle nearer, and OUT and MODE change
by the other owners' events only. -/
def Obligations.IdleCycleChangesNothing : Prop :=
  ∀ s : State, Runs s → ControlInv s → s.seq = .idle → s.executing = none → cmdValid s = false →
    ∃ t, step s = .next t ∧
      t.host = (match s.host with
        | [] => []
        | o :: rest => { o with wait := o.wait - 1 } :: rest) ∧
      t = closeCycle (othersNow s) { s with
        host := t.host, env := s.env.tail, rsp := none, gpioEv := none, mtEv := none } ∧
      t = { s with
        host := t.host, env := s.env.tail, rsp := none, gpioEv := none, mtEv := none, out := t.out, mode := t.mode }

/-- R261, R262, R263, R43: in a cycle without reset and without another owner's event, the GPIO registers and the pin modes
change by the one event the step puts on `gpio_ev`, and by nothing else. -/
def Obligations.IssuedEventTakesEffect : Prop :=
  ∀ s t : State, rstNow s = false → othersNow s = [] → step s = .next t →
    (t.out, t.mode) =
      match t.gpioEv with
      | none => (s.out, s.mode)
      | some e => ((applyGpio e s).out, (applyGpio e s).mode)

/-- R250: no step of a well-formed machine faults or refuses from a state that keeps R45, unless the environment breaks a duty
of R264 or a reset samples the reserved channel order. -/
def Obligations.StepNeverStops : Prop :=
  ∀ s : State, s.cfg.wf = true → ControlInv s → (othersNow s).all (keepsDuty s) = true →
    (∀ st, inputs s = .reset st → st.wf = true) → ∃ t, step s = .next t

/-! ## 41_pixel_buffer.md -/

/-- R172, R62: SETPIX3 in range stores the three scaled bytes at the channels' addresses; every other byte and everything else
is as before. Otherwise it does nothing. -/
def Obligations.SetPix3StoresScaledBytes : Prop :=
  ∀ (s : State) (i : PixIndex) (r g b : Byte),
    (s.bufValid = true ∧ i.toNat < s.nLeds.toNat →
      ∃ t, exec (.setPix3 i r g b) s = .next t ∧ t = { s with buf := t.buf } ∧
        bufGet t.buf (3 * i.toNat + rOff s.order) = scaleW s.bright r ∧
        bufGet t.buf (3 * i.toNat + gOff s.order) = scaleW s.bright g ∧
        bufGet t.buf (3 * i.toNat + bOff s.order) = scaleW s.bright b ∧
        ∀ a, a ≠ 3 * i.toNat → a ≠ 3 * i.toNat + 1 → a ≠ 3 * i.toNat + 2 → bufGet t.buf a = bufGet s.buf a) ∧
    (¬(s.bufValid = true ∧ i.toNat < s.nLeds.toNat) → exec (.setPix3 i r g b) s = .next s)

/-- R173: SETPIXP does exactly what SETPIX3 does with the unpacked colour, in every state; in range it stores the three
scaled bytes and leaves everything else. -/
def Obligations.SetPixPStoresUnpackedColour : Prop :=
  (∀ (s : State) (i : PixIndex) (c : Color),
    exec (.setPixP i c) s = exec (.setPix3 i (c.extractLsb' 16 8) (c.extractLsb' 8 8) (c.extractLsb' 0 8)) s) ∧
  ∀ (s : State) (i : PixIndex) (c : Color), s.bufValid = true → i.toNat < s.nLeds.toNat →
    ∃ t, exec (.setPixP i c) s = .next t ∧ t = { s with buf := t.buf } ∧
      bufGet t.buf (3 * i.toNat + rOff s.order) = scaleW s.bright (c.extractLsb' 16 8) ∧
      bufGet t.buf (3 * i.toNat + gOff s.order) = scaleW s.bright (c.extractLsb' 8 8) ∧
      bufGet t.buf (3 * i.toNat + bOff s.order) = scaleW s.bright (c.extractLsb' 0 8) ∧
      ∀ a, a ≠ 3 * i.toNat → a ≠ 3 * i.toNat + 1 → a ≠ 3 * i.toNat + 2 → bufGet t.buf a = bufGet s.buf a

/-- R63: where the channel order puts the three bytes of a pixel, seen at the sentinel, where a byte is stored unscaled; a read
uses the same places. -/
def Obligations.ChannelOrderPlacesBytes : Prop :=
  ∀ (s : State) (i : PixIndex) (r g b : Byte), s.bufValid = true → i.toNat < s.nLeds.toNat → s.bright = 0 →
    ∃ t, exec (.setPix3 i r g b) s = .next t ∧
      exec (.getPix i) t = .next { t with rsp := some { value := packColor r g b, wait := 0 } } ∧
      match s.order with
      | .rgb => bufGet t.buf (3 * i.toNat) = r ∧ bufGet t.buf (3 * i.toNat + 1) = g ∧ bufGet t.buf (3 * i.toNat + 2) = b
      | .grb => bufGet t.buf (3 * i.toNat) = g ∧ bufGet t.buf (3 * i.toNat + 1) = r ∧ bufGet t.buf (3 * i.toNat + 2) = b
      | .brg => bufGet t.buf (3 * i.toNat) = b ∧ bufGet t.buf (3 * i.toNat + 1) = r ∧ bufGet t.buf (3 * i.toNat + 2) = g

/-- R171: the value stored for a colour byte. -/
def Obligations.WriteTimeScaling : Prop :=
  ∀ (bright : BitVec 9) (c : Byte), bright.toNat ≤ 256 →
    (bright = 0 → scaleW bright c = c) ∧
    (bright ≠ 0 → (scaleW bright c).toNat = (c.toNat * bright.toNat) >>> 8) ∧
    (bright.toNat = 256 → scaleW bright c = c) ∧ (bright.toNat = 1 → scaleW bright c = 0)

/-- R170, R178: out of range, or without a buffer, SETPIX3 and SETPIXP change nothing and GETPIX answers 0. -/
def Obligations.OutOfRangePixelIsNoOp : Prop :=
  ∀ (s : State) (i : PixIndex), s.bufValid = false ∨ s.nLeds.toNat ≤ i.toNat →
    (∀ r g b, exec (.setPix3 i r g b) s = .next s) ∧ (∀ c, exec (.setPixP i c) s = .next s) ∧
    exec (.getPix i) s = .next { s with rsp := some { value := 0, wait := 0 } }

/-- R174: GETPIX in range answers the three stored bytes in canonical order, else 0; it changes nothing. -/
def Obligations.GetPixAnswersStoredBytes : Prop :=
  ∀ (s : State) (i : PixIndex),
    (s.bufValid = true ∧ i.toNat < s.nLeds.toNat →
      ∃ v : Color, exec (.getPix i) s = .next { s with rsp := some { value := v, wait := 0 } } ∧
        redOf v = bufGet s.buf (3 * i.toNat + rOff s.order) ∧ greenOf v = bufGet s.buf (3 * i.toNat + gOff s.order) ∧
        blueOf v = bufGet s.buf (3 * i.toNat + bOff s.order)) ∧
    (¬(s.bufValid = true ∧ i.toNat < s.nLeds.toNat) →
      exec (.getPix i) s = .next { s with rsp := some { value := 0, wait := 0 } })

/-- R175, R176: NUMPIX answers the LED count, COLOR the packed colour of its operands; neither changes any state. -/
def Obligations.NumPixAndColorAnswer : Prop :=
  (∀ s : State, ∃ v : Color, v.toNat = s.nLeds.toNat ∧
    exec .numPix s = .next { s with rsp := some { value := v, wait := 0 } }) ∧
  ∀ (s : State) (r g b : Byte), ∃ v : Color, v.toNat = (r.toNat <<< 16) ||| (g.toNat <<< 8) ||| b.toNat ∧
    exec (.color r g b) s = .next { s with rsp := some { value := v, wait := 0 } }

/-- R177: GETPIX after SETPIX3 of the same pixel answers the scaled colour, at the sentinel exactly the colour, in every
channel order. -/
def Obligations.SetThenGetRoundTrip : Prop :=
  ∀ (s : State) (i : PixIndex) (r g b : Byte), s.bufValid = true → i.toNat < s.nLeds.toNat →
    ∃ t u, exec (.setPix3 i r g b) s = .next t ∧ exec (.getPix i) t = .next u ∧
      u.rsp = some { value := packColor (scaleW s.bright r) (scaleW s.bright g) (scaleW s.bright b), wait := 0 } ∧
      (s.bright = 0 → u.rsp = some { value := packColor r g b, wait := 0 })

/-! ## 42_brightness.md -/

/-- R200, R201, R203, R204: SETBRT to a new level stores `level + 1` and replaces every byte `x` of the buffer by
`trunc_8((x * scale) >> 8)`, with the scale from the old stored value; nothing else changes. Without a buffer, or for the level
already stored, it does nothing. -/
def Obligations.SetBrtRescalesEveryByte : Prop :=
  ∀ (s : State) (level : Byte),
    (s.bufValid = true ∧ level.toNat + 1 ≠ s.bright.toNat →
      ∃ t, exec (.setBrt level) s = .next t ∧ t = { s with buf := t.buf, bright := t.bright } ∧
        t.bright.toNat = level.toNat + 1 ∧
        (∀ a, a < nBytes s → (bufGet t.buf a).toNat =
          (((bufGet s.buf a).toNat *
            (if s.bright = 0 then 0 else (((level.toNat + 1) <<< 8) - 1) / s.bright.toNat)) >>> 8) % 256) ∧
        ∀ a, nBytes s ≤ a → bufGet t.buf a = bufGet s.buf a) ∧
    (¬(s.bufValid = true ∧ level.toNat + 1 ≠ s.bright.toNat) → exec (.setBrt level) s = .next s)

/-- R208: on an inert object SETBRT does nothing at all. -/
def Obligations.SetBrtOnInertObjectIsNoOp : Prop :=
  ∀ (s : State) (level : Byte), s.bufValid = false → exec (.setBrt level) s = .next s

/-- R202: SETBRT of the level already stored changes nothing, and the second of two equal SETBRT does nothing. -/
def Obligations.SetBrtTwiceRescalesOnce : Prop :=
  (∀ (s : State) (level : Byte), level.toNat + 1 = s.bright.toNat → exec (.setBrt level) s = .next s) ∧
  ∀ (s : State) (level : Byte), ∃ t, exec (.setBrt level) s = .next t ∧ exec (.setBrt level) t = .next t

/-- R206: from the sentinel, any SETBRT erases the buffer. -/
def Obligations.FirstSetBrtErases : Prop :=
  ∀ (s : State) (level : Byte), s.bufValid = true → s.bright = 0 →
    ∃ t, exec (.setBrt level) s = .next t ∧ t.bright.toNat = level.toNat + 1 ∧ ∀ a, a < nBytes s → bufGet t.buf a = 0

/-- R209: from a state that keeps R45 (g) and (h), SETBRT leaves every byte within what the new brightness allows, and a
rescaled byte is the whole of `(x * scale) >> 8`: `trunc_8` drops nothing. -/
def Obligations.RescaleNeverOverflows : Prop :=
  ∀ (s : State) (level : Byte), BrightnessInv s → s.bufValid = true → s.bright ≠ 0 →
    ∃ t, exec (.setBrt level) s = .next t ∧
      (∀ a, a < nBytes s → (bufGet t.buf a).toNat ≤ (255 * (level.toNat + 1)) >>> 8) ∧
      (level.toNat + 1 ≠ s.bright.toNat → ∀ a, a < nBytes s →
        (bufGet t.buf a).toNat =
          ((bufGet s.buf a).toNat * ((((level.toNat + 1) <<< 8) - 1) / s.bright.toNat)) >>> 8)

/-- R210: `SETBRT 0` from a state that keeps R45 (g) and (h), with a stored value of at least 2, leaves every byte 0 and the
stored value 1. -/
def Obligations.SetBrtZeroDarkens : Prop :=
  ∀ s : State, BrightnessInv s → s.bufValid = true → 2 ≤ s.bright.toNat →
    ∃ t, exec (.setBrt 0) s = .next t ∧ t.bright.toNat = 1 ∧ ∀ a, a < nBytes s → bufGet t.buf a = 0

/-! ## 43_facade.md -/

/-- R222, R223: BEGIN in any facade state; ignored if the pin does not resolve. -/
def Obligations.BeginBindsPin : Prop :=
  (∀ (s : State) (h : Handle) (m : PortValue), resolve s.cfg s.pinId = some (h, m) →
    exec .beginBind s = .next { s with
      pinHandle := some h, pinMask := some m, oe := true, line := false, fsm := .ready,
      gpioPending := s.gpioPending ++ [.mode s.pinId .output, .clr h m] }) ∧
  ∀ s : State, resolve s.cfg s.pinId = none → exec .beginBind s = .next s

/-- R224, R225, R228: END, in any facade state; the mode event is skipped if the pin does not resolve. -/
def Obligations.EndReleasesPin : Prop :=
  ∀ s : State, exec .endBind s = .next { s with
    oe := false, fsm := .unbound,
    gpioPending := s.gpioPending ++ (if (resolve s.cfg s.pinId).isSome then [.mode s.pinId .input] else []) }

/-- R226, R232: SETPIN in `Ready` with a pin that resolves, also the pin already bound; elsewhere only the pin is recorded;
ignored if the pin does not resolve. -/
def Obligations.SetPinRebindsInReady : Prop :=
  (∀ (s : State) (new : PinId) (h : Handle) (m : PortValue), s.fsm = .ready → resolve s.cfg new = some (h, m) →
    exec (.setPin new) s = .next { s with
      pinId := new, pinHandle := some h, pinMask := some m, line := false,
      gpioPending := s.gpioPending ++ [.mode s.pinId .input, .mode new .output, .clr h m] }) ∧
  (∀ (s : State) (new : PinId), s.fsm ≠ .ready → resolve s.cfg new ≠ none →
    exec (.setPin new) s = .next { s with pinId := new }) ∧
  ∀ (s : State) (new : PinId), resolve s.cfg new = none → exec (.setPin new) s = .next s

/-- R227: SETPIN in `Unbound` with a pin that resolves only records it; the next BEGIN resolves and drives the new pin. -/
def Obligations.SetPinRecordsWhenUnbound : Prop :=
  ∀ (s : State) (new : PinId) (h : Handle) (m : PortValue), s.fsm = .unbound → resolve s.cfg new = some (h, m) →
    exec (.setPin new) s = .next { s with pinId := new } ∧
    exec .beginBind { s with pinId := new } = .next { s with
      pinId := new, pinHandle := some h, pinMask := some m, oe := true, line := false, fsm := .ready,
      gpioPending := s.gpioPending ++ [.mode new .output, .clr h m] }

/-- R228: BEGIN and SETPIN with a pin that does not resolve are ignored; END then skips its event only. -/
def Obligations.UnresolvedPinIgnored : Prop :=
  (∀ s : State, resolve s.cfg s.pinId = none →
    exec .beginBind s = .next s ∧ exec .endBind s = .next { s with oe := false, fsm := .unbound }) ∧
  ∀ (s : State) (new : PinId), resolve s.cfg new = none → exec (.setPin new) s = .next s

/-- R220: without a reset, the facade moves only from `Unbound` to `Ready` by a BEGIN whose pin resolves, from `Ready` to
`Transmitting` by a SHOW with a valid buffer, from `Ready` to `Unbound` by an END, and from `Transmitting` to `Ready` in the
last cycle of the gap (`CNT = 1`) or in a disturbed cycle. -/
def Obligations.FacadeTransitions : Prop :=
  ∀ s t : State, ControlInv s → rstNow s = false → step s = .next t → t.fsm ≠ s.fsm →
    (s.fsm = .unbound ∧ t.fsm = .ready ∧ resolve s.cfg s.pinId ≠ none ∧
      ∃ w rest, Accepts s w rest ∧ decode w = .command .beginBind) ∨
    (s.fsm = .ready ∧ t.fsm = .transmitting ∧ s.bufValid = true ∧
      ∃ w rest, Accepts s w rest ∧ decode w = .command .showFrame) ∨
    (s.fsm = .ready ∧ t.fsm = .unbound ∧ ∃ w rest, Accepts s w rest ∧ decode w = .command .endBind) ∨
    (s.fsm = .transmitting ∧ t.fsm = .ready ∧
      (s.disturbed ≠ none ∨ preemptNow s = true ∨ (s.seq = .gap ∧ s.cnt.toNat = 1)))

/-! ## 40_protocol_encoder.md -/

/-- R131: SHOW. Ignored outside `Ready` and without a buffer; else the critical section is entered, and the line rises for the
first bit, `BUF[0][7]`, or, for an empty buffer, the gap starts and the line is not touched. The port is busy until the frame
ends. -/
def Obligations.ShowStartsFrame : Prop :=
  (∀ s : State, s.fsm ≠ .ready ∨ s.bufValid = false → exec .showFrame s = .next s) ∧
  (∀ s : State, s.fsm = .ready → s.bufValid = true → s.nLeds = 0 →
    exec .showFrame s = .next { s with
      fsm := .transmitting, crit := true, mtSuspend := true, mtEv := some .suspend,
      seq := .gap, bytePtr := 0, bitIdx := 7, cnt := s.cfg.profile.tres }) ∧
  (∀ (s : State) (h : Handle) (m : PortValue), s.fsm = .ready → s.bufValid = true → s.nLeds ≠ 0 →
    s.pinHandle = some h → s.pinMask = some m →
    exec .showFrame s = .next { s with
      fsm := .transmitting, crit := true, mtSuspend := true, mtEv := some .suspend,
      seq := .hi, bytePtr := 0, bitIdx := 7, line := true,
      cnt := (if (bufGet s.buf 0).getLsbD 7 then s.cfg.profile.t1h else s.cfg.profile.t0h),
      gpioPending := s.gpioPending ++ [.set h m] }) ∧
  ∀ s : State, s.seq ≠ .idle → cmdReady s = false

/-- R31: SHOW of a non-empty buffer reads `PIN_HANDLE` and `PIN_MASK`; where they have no value (in no state that keeps
R45 (e)) it faults. -/
def Obligations.ShowWithoutBindingFaults : Prop :=
  ∀ s : State, s.fsm = .ready → s.bufValid = true → s.nLeds ≠ 0 → s.pinHandle = none ∨ s.pinMask = none →
    exec .showFrame s = .fault .bindingNoValue

/-- R134: the sequencer step of every cycle of an undisturbed frame, arm by arm, at the level of `step`; `tick` and
`closeCycle` are the passing of the cycle and the issuing of its event. -/
def Obligations.SequencerStep : Prop :=
  (∀ s : State, s.seq = .idle → sequencerStep s = .ok s) ∧
  ∀ (s : State) (h : Handle) (m : PortValue), Runs s → s.seq ≠ .idle → s.disturbed = none → preemptNow s = false →
    s.pinHandle = some h → s.pinMask = some m → s.seq = .gap ∨ s.bytePtr.toNat < nBytes s →
    ∃ u, step s = .next (closeCycle (othersNow s) u) ∧
      (1 < s.cnt.toNat → u = { tick s with cnt := s.cnt - 1 }) ∧
      (s.cnt.toNat ≤ 1 → s.seq = .gap →
        u = { tick s with seq := .idle, fsm := .ready, crit := false, mtSuspend := false, mtEv := some .resume }) ∧
      (s.cnt.toNat ≤ 1 → s.seq = .hi →
        u = { tick s with
          line := false, seq := .lo, gpioPending := s.gpioPending ++ [.clr h m],
          cnt := (if (bufGet s.buf s.bytePtr.toNat).getLsbD s.bitIdx.toNat then s.cfg.profile.t1l
            else s.cfg.profile.t0l) }) ∧
      (s.cnt.toNat ≤ 1 → s.seq = .lo → 0 < s.bitIdx.toNat →
        u = { tick s with
          bitIdx := s.bitIdx - 1, line := true, seq := .hi, gpioPending := s.gpioPending ++ [.set h m],
          cnt := (if (bufGet s.buf s.bytePtr.toNat).getLsbD (s.bitIdx.toNat - 1) then s.cfg.profile.t1h
            else s.cfg.profile.t0h) }) ∧
      (s.cnt.toNat ≤ 1 → s.seq = .lo → s.bitIdx.toNat = 0 → s.bytePtr.toNat + 1 < nBytes s →
        u = { tick s with
          bytePtr := s.bytePtr + 1, bitIdx := 7, line := true, seq := .hi,
          gpioPending := s.gpioPending ++ [.set h m],
          cnt := (if (bufGet s.buf (s.bytePtr.toNat + 1)).getLsbD 7 then s.cfg.profile.t1h
            else s.cfg.profile.t0h) }) ∧
      (s.cnt.toNat ≤ 1 → s.seq = .lo → s.bitIdx.toNat = 0 → s.bytePtr.toNat + 1 = nBytes s →
        u = { tick s with bytePtr := s.bytePtr + 1, bitIdx := 7, seq := .gap, cnt := s.cfg.profile.tres })

/-- R135, R132, R136, R137: the waveform of a frame. From the cycle after the acceptance of a SHOW in `Ready` with a valid buffer,
undisturbed, `LINE`, the wire and the GPIO events are those of `frameWave` for its `D` cycles, `cmd_ready` is 0 and the
critical section held; in the next cycle the block is `Ready`, the line low, the section left, and a command can be accepted. -/
def Obligations.FrameWaveform : Prop :=
  ∀ (s : State) (w : CmdWord) (rest : List Offer) (h : Handle) (m : PortValue),
    Accepts s w rest → decode w = .command .showFrame → ControlInv s → s.glitched = false →
    s.fsm = .ready → s.bufValid = true → resolve s.cfg s.pinId = some (h, m) →
    (∀ c ∈ s.env.tail.take (frameDuration s + 1), undisturbed s c = true) →
    (frameWave s h m).length = frameDuration s ∧
    (s.cfg.profile.t0h.toNat + s.cfg.profile.t0l.toNat = s.cfg.profile.t1h.toNat + s.cfg.profile.t1l.toNat →
      frameDuration s = 24 * s.nLeds.toNat * (s.cfg.profile.t0h.toNat + s.cfg.profile.t0l.toNat) +
        s.cfg.profile.tres.toNat) ∧
    (∀ n, n < frameDuration s →
      ∃ t, core.run (n + 1) s = .next t ∧ (frameWave s h m)[n]? = some (t.line, t.gpioEv) ∧
        wire t = some (levelOf t.line) ∧ t.fsm = .transmitting ∧ t.crit = true ∧ t.mtSuspend = true ∧
        cmdReady t = false) ∧
    ∃ t, core.run (frameDuration s + 1) s = .next t ∧ t.seq = .idle ∧ t.fsm = .ready ∧ t.line = false ∧
      t.crit = false ∧ t.mtSuspend = false ∧ t.glitched = false ∧ cmdReady t = true ∧ t.buf = s.buf ∧ t.host = rest

/-- R136, R137, R24: the length of the waveform is `D`; with equal bit periods `D` is `24 * N_LEDS * TBIT + TRES`; the events
are `8 * NBYTES` pairs of a set and a clear, and no other. -/
def Obligations.FrameDurationAndEvents : Prop :=
  ∀ (s : State) (h : Handle) (m : PortValue), s.cfg.wf = true →
    (frameWave s h m).length = frameDuration s ∧
    (s.cfg.profile.t0h.toNat + s.cfg.profile.t0l.toNat = s.cfg.profile.t1h.toNat + s.cfg.profile.t1l.toNat →
      frameDuration s = 24 * s.nLeds.toNat * (s.cfg.profile.t0h.toNat + s.cfg.profile.t0l.toNat) +
        s.cfg.profile.tres.toNat) ∧
    (frameWave s h m).filterMap Prod.snd = (List.replicate (8 * nBytes s) [GpioEvent.set h m, .clr h m]).flatten

/-- R230, R74, R138: a cycle of a frame accepts nothing and writes neither the buffer nor the brightness nor the binding. -/
def Obligations.FrameCycleKeepsEverythingElse : Prop :=
  ∀ s t : State, s.seq ≠ .idle → rstNow s = false → step s = .next t →
    t.host = s.host ∧ t.buf = s.buf ∧ t.bright = s.bright ∧ t.nLeds = s.nLeds ∧ t.order = s.order ∧
    t.bufValid = s.bufValid ∧ t.pinId = s.pinId ∧ t.pinHandle = s.pinHandle ∧ t.pinMask = s.pinMask ∧ t.oe = s.oe ∧
    t.executing = s.executing ∧ t.rsp = advanceRsp s.rsp ∧ t.cfg = s.cfg

/-! ## 60_exceptions.md -/

/-- R266: with `SEQ = IDLE`, `PREEMPT` has no effect on the block. -/
def Obligations.PreemptWhileIdleHasNoEffect : Prop :=
  ∀ (s : State) (os : List GpioEvent), s.seq = .idle → inputs s = .run true os →
    step s = step { s with env := .run false os :: s.env.tail }

/-- R266: a preempted cycle of a frame sets `GLITCHED`, and the frame still ends, after a finite number of cycles, in `Ready`
with `LINE = 0`, `CRIT = 0`, `MT_SUSPEND = 0`, whatever the free values are. -/
def Obligations.PreemptedFrameEnds : Prop :=
  ∀ s : State, s.cfg.wf = true → ControlInv s → s.seq ≠ .idle → preemptNow s = true →
    (∀ c ∈ s.env, noReset s c = true) →
    (∃ t, step s = .next t ∧ t.glitched = true) ∧
    ∃ n t, core.run (n + 1) s = .next t ∧ t.glitched = true ∧ t.seq = .idle ∧ t.fsm = .ready ∧ t.line = false ∧
      t.crit = false ∧ t.mtSuspend = false ∧ t.buf = s.buf ∧ t.host = s.host

/-- R41: `GLITCHED` is set only by a preempted cycle of a frame, and never cleared except by reset. -/
def Obligations.GlitchedIsSticky : Prop :=
  ∀ s t : State, rstNow s = false → step s = .next t →
    (s.glitched = true → t.glitched = true) ∧
    (s.glitched = false → t.glitched = true → preemptNow s = true ∧ s.seq ≠ .idle)

/-- R263: `GpioSet` raises and `GpioClr` drops the masked bit of the register, every other bit of every register keeps its
value, and no mode changes; R262: `GpioMode` sets the mode of its pin alone, and no register changes. -/
def Obligations.GpioEventsWriteOneBit : Prop :=
  (∀ (s : State) (h : Handle) (m : PortValue), m ≠ 0 →
    outBit (applyGpio (.set h m) s).out h m = some true ∧ outBit (applyGpio (.clr h m) s).out h m = some false) ∧
  (∀ (s : State) (h k : Handle) (m n : PortValue), h ≠ k ∨ m &&& n = 0 →
    outBit (applyGpio (.set h m) s).out k n = outBit s.out k n ∧
    outBit (applyGpio (.clr h m) s).out k n = outBit s.out k n) ∧
  (∀ (s : State) (p q : PinId) (d : PinMode),
    modeGet (applyGpio (.mode p d) s).mode q = if q = p then some d else modeGet s.mode q) ∧
  ∀ (s : State) (p : PinId) (d : PinMode) (h : Handle) (m : PortValue),
    applyGpio (.mode p d) s = { s with mode := (applyGpio (.mode p d) s).mode } ∧
    applyGpio (.set h m) s = { s with out := (applyGpio (.set h m) s).out } ∧
    applyGpio (.clr h m) s = { s with out := (applyGpio (.clr h m) s).out }

/-- R264, U11 (93_implementation_defined.md): another owner that writes the bound bit or the bound pin's mode, or during a
frame any bit of the bound register, is a fault. That the write is held against the cycle in which the owner makes it is THE
MODEL'S CHOICE (log entry 6). -/
def Obligations.BrokenGpioDutyFaults : Prop :=
  ∀ (s : State) (e : GpioEvent), s.cfg.wf = true → rstNow s = false → e ∈ othersNow s →
    (∃ p d, e = .mode p d ∧ s.fsm ≠ .unbound ∧ p = s.pinId) ∨
    (∃ h m n, (e = .set h n ∨ e = .clr h n) ∧ s.pinHandle = some h ∧ s.pinMask = some m ∧
      (s.crit = true ∨ (s.fsm ≠ .unbound ∧ n &&& m ≠ 0))) →
    step s = .fault .gpioDutyBroken

/-! ## 10_state.md: the outputs, who writes what, the invariants -/

/-- R38, R103: in a run without a disturbed frame the wire is not driven in `Unbound` and low in `Ready`, except while a
BEGIN, END or SETPIN executes, when it is not specified. -/
def Obligations.WireIdleLevel : Prop :=
  ∀ s : State, ControlInv s → s.glitched = false → s.seq = .idle →
    (pinCommandExecuting s = true → wire s = none) ∧
    (pinCommandExecuting s = false → s.fsm = .unbound → wire s = some .z) ∧
    (pinCommandExecuting s = false → s.fsm = .ready → wire s = some .low)

/-- R45 (j), R24, R25, R27: without a reset no step writes `N_LEDS`, `ORDER` or `BUF_VALID`; no step writes a parameter. -/
def Obligations.ConfigurationConstant : Prop :=
  ∀ s t : State, step s = .next t →
    t.cfg = s.cfg ∧ (rstNow s = false → t.nLeds = s.nLeds ∧ t.order = s.order ∧ t.bufValid = s.bufValid)

/-- R23, R28: without a reset only an accepted SETPIX3, SETPIXP or SETBRT changes a byte of the buffer. -/
def Obligations.OnlyMutatorsChangeBuffer : Prop :=
  ∀ (s t : State) (a : Nat), rstNow s = false → step s = .next t → bufGet t.buf a ≠ bufGet s.buf a →
    ∃ w rest, Accepts s w rest ∧
      ((∃ i r g b, decode w = .command (.setPix3 i r g b)) ∨ (∃ i c, decode w = .command (.setPixP i c)) ∨
        ∃ l, decode w = .command (.setBrt l))

/-- R26, R30: without a reset only an accepted SETBRT changes `BRIGHT`, and to `level + 1`, so never to the sentinel; only an
accepted SETPIN changes `PIN_ID`, and to its operand. -/
def Obligations.OnlySetBrtAndSetPinWriteTheirRegisters : Prop :=
  ∀ s t : State, rstNow s = false → step s = .next t →
    (t.bright ≠ s.bright → t.bright ≠ 0 ∧
      ∃ w rest l, Accepts s w rest ∧ decode w = .command (.setBrt l) ∧ t.bright.toNat = l.toNat + 1) ∧
    (t.pinId ≠ s.pinId → ∃ w rest p, Accepts s w rest ∧ decode w = .command (.setPin p) ∧ t.pinId = p)

/-- R45 (a) to (e), (i): every step keeps the agreement of the facade, the sequencer, the outputs and the binding. -/
def Obligations.StepKeepsControlInvariant : Prop :=
  ∀ s t : State, ControlInv s → step s = .next t → ControlInv t

/-- R45 (f), R28: every step keeps the buffer in its canonical form and inside its addresses. -/
def Obligations.StepKeepsBufferInvariant : Prop :=
  ∀ s t : State, BufferInv s → step s = .next t → BufferInv t

/-- R45 (g), (h), R209: every step keeps every byte within what the brightness allows. -/
def Obligations.StepKeepsBrightnessInvariant : Prop :=
  ∀ s t : State, BrightnessInv s → step s = .next t → BrightnessInv t

/-- R36: every step keeps `LINE` equal to the bound bit of the GPIO register, for other owners that keep R264. -/
def Obligations.StepKeepsPinLevel : Prop :=
  ∀ s t : State, ControlInv s → PinLevelInv s → step s = .next t → PinLevelInv t

/-- R37, R262: every step keeps the mode of the bound pin at output, for other owners that keep R264, and in the cycle that
accepts a BEGIN off the mode of `PIN_ID` (there R264 leaves it free, and the order of two writes to it is open: log entry 6). -/
def Obligations.StepKeepsPinMode : Prop :=
  ∀ s t : State, ControlInv s → PinModeInv s → (s.fsm = .unbound → ∀ d, GpioEvent.mode s.pinId d ∉ othersNow s) →
    step s = .next t → PinModeInv t

/-- R16, R136: a program that is offered in an environment without resets, whose other owners keep off the pin table, comes to
its end, with or without `PREEMPT`, whatever the free values are (log entry 10). -/
def Obligations.EveryProgramEnds : Prop :=
  ∀ s : State, s.cfg.wf = true → ControlInv s → (∀ c ∈ s.env, detached s.cfg c = true) →
    ∃ n t, core.run n s = .next t ∧ t.runOver = true
end

