-- ==== Sys2Proof/Laws/Encoding.lean ====
section
/-! SUPPORT. The fields of a word and the bytes of a colour, read back from what they were put together from (R92, R97). -/

namespace Sys2Proof

@[simp] theorem opOf_commandWord (op : BitVec 4) (idx : PixIndex) (data : Color) :
    opOf (commandWord op idx data) = op := by
  apply BitVec.eq_of_getLsbD_eq
  intro i hi
  simp only [opOf, commandWord, BitVec.getLsbD_append, BitVec.getLsbD_extractLsb']
  have h1 : ¬ 40 + i < 24 := by omega
  have h2 : ¬ 40 + i - 24 < 16 := by omega
  have h3 : 40 + i - 24 - 16 = i := by omega
  simp [h1, h2, h3, hi]

@[simp] theorem idxOf_commandWord (op : BitVec 4) (idx : PixIndex) (data : Color) :
    idxOf (commandWord op idx data) = idx := by
  apply BitVec.eq_of_getLsbD_eq
  intro i hi
  simp only [idxOf, commandWord, BitVec.getLsbD_append, BitVec.getLsbD_extractLsb']
  have h1 : ¬ 24 + i < 24 := by omega
  simp [hi, h1]

@[simp] theorem dataOf_commandWord (op : BitVec 4) (idx : PixIndex) (data : Color) :
    dataOf (commandWord op idx data) = data := by
  apply BitVec.eq_of_getLsbD_eq
  intro i hi
  simp only [dataOf, commandWord, BitVec.getLsbD_append, BitVec.getLsbD_extractLsb']
  simp [hi]

@[simp] theorem redOf_packColor (r g b : Byte) : redOf (packColor r g b) = r := by
  apply BitVec.eq_of_getLsbD_eq
  intro i hi
  simp only [redOf, packColor, BitVec.getLsbD_append, BitVec.getLsbD_extractLsb']
  have h1 : ¬ 16 + i < 8 := by omega
  have h2 : ¬ 16 + i - 8 < 8 := by omega
  have h3 : 16 + i - 8 - 8 = i := by omega
  simp [h1, h2, h3, hi]

@[simp] theorem greenOf_packColor (r g b : Byte) : greenOf (packColor r g b) = g := by
  apply BitVec.eq_of_getLsbD_eq
  intro i hi
  simp only [greenOf, packColor, BitVec.getLsbD_append, BitVec.getLsbD_extractLsb']
  have h1 : ¬ 8 + i < 8 := by omega
  simp [hi, h1]

@[simp] theorem blueOf_packColor (r g b : Byte) : blueOf (packColor r g b) = b := by
  apply BitVec.eq_of_getLsbD_eq
  intro i hi
  simp only [blueOf, packColor, BitVec.getLsbD_append, BitVec.getLsbD_extractLsb']
  simp [hi]

/-- The bits of a word, field by field. -/
theorem getLsbD_commandWord (op : BitVec 4) (idx : PixIndex) (data : Color) (j : Nat) :
    (commandWord op idx data).getLsbD j =
      if j < 24 then data.getLsbD j else if j < 40 then idx.getLsbD (j - 24) else op.getLsbD (j - 40) := by
  simp only [commandWord, BitVec.getLsbD_append]
  by_cases h : j < 24
  · simp [h]
  · by_cases h2 : j < 40
    · have : j - 24 < 16 := by omega
      simp [h, h2, this]
    · have : ¬ j - 24 < 16 := by omega
      have h3 : j - 24 - 16 = j - 40 := by omega
      simp [h, h2, this, h3]

/-- The bits of a packed colour, byte by byte. -/
theorem getLsbD_packColor (r g b : Byte) (j : Nat) :
    (packColor r g b).getLsbD j =
      if j < 8 then b.getLsbD j else if j < 16 then g.getLsbD (j - 8) else r.getLsbD (j - 16) := by
  simp only [packColor, BitVec.getLsbD_append]
  by_cases h : j < 8
  · simp [h]
  · by_cases h2 : j < 16
    · have : j - 8 < 8 := by omega
      simp [h, h2, this]
    · have : ¬ j - 8 < 8 := by omega
      have h3 : j - 8 - 8 = j - 16 := by omega
      simp [h, h2, this, h3]

end Sys2Proof
end

