-- ==== Sys2Proof/Laws/State.lean ====
section
/-! SUPPORT. The small lemmas of the state's updates: what each leaves in each field, so that no later proof unfolds a record
update. -/

namespace Sys2Proof.Machine

open Sys2Proof

/-! ### emit -/

section

variable (es : List GpioEvent) (s : State)

@[simp] theorem emit_cfg : (emit es s).cfg = s.cfg := rfl
@[simp] theorem emit_host : (emit es s).host = s.host := rfl
@[simp] theorem emit_env : (emit es s).env = s.env := rfl
@[simp] theorem emit_nLeds : (emit es s).nLeds = s.nLeds := rfl
@[simp] theorem emit_order : (emit es s).order = s.order := rfl
@[simp] theorem emit_bufValid : (emit es s).bufValid = s.bufValid := rfl
@[simp] theorem emit_buf : (emit es s).buf = s.buf := rfl
@[simp] theorem emit_bright : (emit es s).bright = s.bright := rfl
@[simp] theorem emit_fsm : (emit es s).fsm = s.fsm := rfl
@[simp] theorem emit_pinId : (emit es s).pinId = s.pinId := rfl
@[simp] theorem emit_pinHandle : (emit es s).pinHandle = s.pinHandle := rfl
@[simp] theorem emit_pinMask : (emit es s).pinMask = s.pinMask := rfl
@[simp] theorem emit_seq : (emit es s).seq = s.seq := rfl
@[simp] theorem emit_bytePtr : (emit es s).bytePtr = s.bytePtr := rfl
@[simp] theorem emit_bitIdx : (emit es s).bitIdx = s.bitIdx := rfl
@[simp] theorem emit_cnt : (emit es s).cnt = s.cnt := rfl
@[simp] theorem emit_line : (emit es s).line = s.line := rfl
@[simp] theorem emit_oe : (emit es s).oe = s.oe := rfl
@[simp] theorem emit_crit : (emit es s).crit = s.crit := rfl
@[simp] theorem emit_mtSuspend : (emit es s).mtSuspend = s.mtSuspend := rfl
@[simp] theorem emit_glitched : (emit es s).glitched = s.glitched := rfl
@[simp] theorem emit_executing : (emit es s).executing = s.executing := rfl
@[simp] theorem emit_rsp : (emit es s).rsp = s.rsp := rfl
@[simp] theorem emit_gpioPending : (emit es s).gpioPending = s.gpioPending ++ es := rfl
@[simp] theorem emit_gpioEv : (emit es s).gpioEv = s.gpioEv := rfl
@[simp] theorem emit_mtEv : (emit es s).mtEv = s.mtEv := rfl
@[simp] theorem emit_out : (emit es s).out = s.out := rfl
@[simp] theorem emit_mode : (emit es s).mode = s.mode := rfl
@[simp] theorem emit_disturbed : (emit es s).disturbed = s.disturbed := rfl
@[simp] theorem emit_draws : (emit es s).draws = s.draws := rfl

end

/-! ### respond -/

section

variable (v : Color) (s : State)

@[simp] theorem respond_cfg : (respond v s).cfg = s.cfg := rfl
@[simp] theorem respond_host : (respond v s).host = s.host := rfl
@[simp] theorem respond_env : (respond v s).env = s.env := rfl
@[simp] theorem respond_nLeds : (respond v s).nLeds = s.nLeds := rfl
@[simp] theorem respond_order : (respond v s).order = s.order := rfl
@[simp] theorem respond_bufValid : (respond v s).bufValid = s.bufValid := rfl
@[simp] theorem respond_buf : (respond v s).buf = s.buf := rfl
@[simp] theorem respond_bright : (respond v s).bright = s.bright := rfl
@[simp] theorem respond_fsm : (respond v s).fsm = s.fsm := rfl
@[simp] theorem respond_pinId : (respond v s).pinId = s.pinId := rfl
@[simp] theorem respond_pinHandle : (respond v s).pinHandle = s.pinHandle := rfl
@[simp] theorem respond_pinMask : (respond v s).pinMask = s.pinMask := rfl
@[simp] theorem respond_seq : (respond v s).seq = s.seq := rfl
@[simp] theorem respond_bytePtr : (respond v s).bytePtr = s.bytePtr := rfl
@[simp] theorem respond_bitIdx : (respond v s).bitIdx = s.bitIdx := rfl
@[simp] theorem respond_cnt : (respond v s).cnt = s.cnt := rfl
@[simp] theorem respond_line : (respond v s).line = s.line := rfl
@[simp] theorem respond_oe : (respond v s).oe = s.oe := rfl
@[simp] theorem respond_crit : (respond v s).crit = s.crit := rfl
@[simp] theorem respond_mtSuspend : (respond v s).mtSuspend = s.mtSuspend := rfl
@[simp] theorem respond_glitched : (respond v s).glitched = s.glitched := rfl
@[simp] theorem respond_executing : (respond v s).executing = s.executing := rfl
@[simp] theorem respond_rsp : (respond v s).rsp = some { value := v, wait := 0 } := rfl
@[simp] theorem respond_gpioPending : (respond v s).gpioPending = s.gpioPending := rfl
@[simp] theorem respond_gpioEv : (respond v s).gpioEv = s.gpioEv := rfl
@[simp] theorem respond_mtEv : (respond v s).mtEv = s.mtEv := rfl
@[simp] theorem respond_out : (respond v s).out = s.out := rfl
@[simp] theorem respond_mode : (respond v s).mode = s.mode := rfl
@[simp] theorem respond_disturbed : (respond v s).disturbed = s.disturbed := rfl
@[simp] theorem respond_draws : (respond v s).draws = s.draws := rfl

end

/-! ### bindPin -/

section

variable (h : Handle) (m : PortValue) (s : State)

@[simp] theorem bindPin_cfg : (bindPin h m s).cfg = s.cfg := rfl
@[simp] theorem bindPin_host : (bindPin h m s).host = s.host := rfl
@[simp] theorem bindPin_env : (bindPin h m s).env = s.env := rfl
@[simp] theorem bindPin_nLeds : (bindPin h m s).nLeds = s.nLeds := rfl
@[simp] theorem bindPin_order : (bindPin h m s).order = s.order := rfl
@[simp] theorem bindPin_bufValid : (bindPin h m s).bufValid = s.bufValid := rfl
@[simp] theorem bindPin_buf : (bindPin h m s).buf = s.buf := rfl
@[simp] theorem bindPin_bright : (bindPin h m s).bright = s.bright := rfl
@[simp] theorem bindPin_fsm : (bindPin h m s).fsm = s.fsm := rfl
@[simp] theorem bindPin_pinId : (bindPin h m s).pinId = s.pinId := rfl
@[simp] theorem bindPin_pinHandle : (bindPin h m s).pinHandle = some h := rfl
@[simp] theorem bindPin_pinMask : (bindPin h m s).pinMask = some m := rfl
@[simp] theorem bindPin_seq : (bindPin h m s).seq = s.seq := rfl
@[simp] theorem bindPin_bytePtr : (bindPin h m s).bytePtr = s.bytePtr := rfl
@[simp] theorem bindPin_bitIdx : (bindPin h m s).bitIdx = s.bitIdx := rfl
@[simp] theorem bindPin_cnt : (bindPin h m s).cnt = s.cnt := rfl
@[simp] theorem bindPin_line : (bindPin h m s).line = s.line := rfl
@[simp] theorem bindPin_oe : (bindPin h m s).oe = s.oe := rfl
@[simp] theorem bindPin_crit : (bindPin h m s).crit = s.crit := rfl
@[simp] theorem bindPin_mtSuspend : (bindPin h m s).mtSuspend = s.mtSuspend := rfl
@[simp] theorem bindPin_glitched : (bindPin h m s).glitched = s.glitched := rfl
@[simp] theorem bindPin_executing : (bindPin h m s).executing = s.executing := rfl
@[simp] theorem bindPin_rsp : (bindPin h m s).rsp = s.rsp := rfl
@[simp] theorem bindPin_gpioPending : (bindPin h m s).gpioPending = s.gpioPending := rfl
@[simp] theorem bindPin_gpioEv : (bindPin h m s).gpioEv = s.gpioEv := rfl
@[simp] theorem bindPin_mtEv : (bindPin h m s).mtEv = s.mtEv := rfl
@[simp] theorem bindPin_out : (bindPin h m s).out = s.out := rfl
@[simp] theorem bindPin_mode : (bindPin h m s).mode = s.mode := rfl
@[simp] theorem bindPin_disturbed : (bindPin h m s).disturbed = s.disturbed := rfl
@[simp] theorem bindPin_draws : (bindPin h m s).draws = s.draws := rfl

end

/-! ### enterCritical -/

section

variable (s : State)

@[simp] theorem enterCritical_cfg : (enterCritical s).cfg = s.cfg := rfl
@[simp] theorem enterCritical_host : (enterCritical s).host = s.host := rfl
@[simp] theorem enterCritical_env : (enterCritical s).env = s.env := rfl
@[simp] theorem enterCritical_nLeds : (enterCritical s).nLeds = s.nLeds := rfl
@[simp] theorem enterCritical_order : (enterCritical s).order = s.order := rfl
@[simp] theorem enterCritical_bufValid : (enterCritical s).bufValid = s.bufValid := rfl
@[simp] theorem enterCritical_buf : (enterCritical s).buf = s.buf := rfl
@[simp] theorem enterCritical_bright : (enterCritical s).bright = s.bright := rfl
@[simp] theorem enterCritical_fsm : (enterCritical s).fsm = s.fsm := rfl
@[simp] theorem enterCritical_pinId : (enterCritical s).pinId = s.pinId := rfl
@[simp] theorem enterCritical_pinHandle : (enterCritical s).pinHandle = s.pinHandle := rfl
@[simp] theorem enterCritical_pinMask : (enterCritical s).pinMask = s.pinMask := rfl
@[simp] theorem enterCritical_seq : (enterCritical s).seq = s.seq := rfl
@[simp] theorem enterCritical_bytePtr : (enterCritical s).bytePtr = s.bytePtr := rfl
@[simp] theorem enterCritical_bitIdx : (enterCritical s).bitIdx = s.bitIdx := rfl
@[simp] theorem enterCritical_cnt : (enterCritical s).cnt = s.cnt := rfl
@[simp] theorem enterCritical_line : (enterCritical s).line = s.line := rfl
@[simp] theorem enterCritical_oe : (enterCritical s).oe = s.oe := rfl
@[simp] theorem enterCritical_crit : (enterCritical s).crit = true := rfl
@[simp] theorem enterCritical_mtSuspend : (enterCritical s).mtSuspend = true := rfl
@[simp] theorem enterCritical_glitched : (enterCritical s).glitched = s.glitched := rfl
@[simp] theorem enterCritical_executing : (enterCritical s).executing = s.executing := rfl
@[simp] theorem enterCritical_rsp : (enterCritical s).rsp = s.rsp := rfl
@[simp] theorem enterCritical_gpioPending : (enterCritical s).gpioPending = s.gpioPending := rfl
@[simp] theorem enterCritical_gpioEv : (enterCritical s).gpioEv = s.gpioEv := rfl
@[simp] theorem enterCritical_mtEv : (enterCritical s).mtEv = some .suspend := rfl
@[simp] theorem enterCritical_out : (enterCritical s).out = s.out := rfl
@[simp] theorem enterCritical_mode : (enterCritical s).mode = s.mode := rfl
@[simp] theorem enterCritical_disturbed : (enterCritical s).disturbed = s.disturbed := rfl
@[simp] theorem enterCritical_draws : (enterCritical s).draws = s.draws := rfl

end

/-! ### leaveCritical -/

section

variable (s : State)

@[simp] theorem leaveCritical_cfg : (leaveCritical s).cfg = s.cfg := rfl
@[simp] theorem leaveCritical_host : (leaveCritical s).host = s.host := rfl
@[simp] theorem leaveCritical_env : (leaveCritical s).env = s.env := rfl
@[simp] theorem leaveCritical_nLeds : (leaveCritical s).nLeds = s.nLeds := rfl
@[simp] theorem leaveCritical_order : (leaveCritical s).order = s.order := rfl
@[simp] theorem leaveCritical_bufValid : (leaveCritical s).bufValid = s.bufValid := rfl
@[simp] theorem leaveCritical_buf : (leaveCritical s).buf = s.buf := rfl
@[simp] theorem leaveCritical_bright : (leaveCritical s).bright = s.bright := rfl
@[simp] theorem leaveCritical_fsm : (leaveCritical s).fsm = s.fsm := rfl
@[simp] theorem leaveCritical_pinId : (leaveCritical s).pinId = s.pinId := rfl
@[simp] theorem leaveCritical_pinHandle : (leaveCritical s).pinHandle = s.pinHandle := rfl
@[simp] theorem leaveCritical_pinMask : (leaveCritical s).pinMask = s.pinMask := rfl
@[simp] theorem leaveCritical_seq : (leaveCritical s).seq = s.seq := rfl
@[simp] theorem leaveCritical_bytePtr : (leaveCritical s).bytePtr = s.bytePtr := rfl
@[simp] theorem leaveCritical_bitIdx : (leaveCritical s).bitIdx = s.bitIdx := rfl
@[simp] theorem leaveCritical_cnt : (leaveCritical s).cnt = s.cnt := rfl
@[simp] theorem leaveCritical_line : (leaveCritical s).line = s.line := rfl
@[simp] theorem leaveCritical_oe : (leaveCritical s).oe = s.oe := rfl
@[simp] theorem leaveCritical_crit : (leaveCritical s).crit = false := rfl
@[simp] theorem leaveCritical_mtSuspend : (leaveCritical s).mtSuspend = false := rfl
@[simp] theorem leaveCritical_glitched : (leaveCritical s).glitched = s.glitched := rfl
@[simp] theorem leaveCritical_executing : (leaveCritical s).executing = s.executing := rfl
@[simp] theorem leaveCritical_rsp : (leaveCritical s).rsp = s.rsp := rfl
@[simp] theorem leaveCritical_gpioPending : (leaveCritical s).gpioPending = s.gpioPending := rfl
@[simp] theorem leaveCritical_gpioEv : (leaveCritical s).gpioEv = s.gpioEv := rfl
@[simp] theorem leaveCritical_mtEv : (leaveCritical s).mtEv = some .resume := rfl
@[simp] theorem leaveCritical_out : (leaveCritical s).out = s.out := rfl
@[simp] theorem leaveCritical_mode : (leaveCritical s).mode = s.mode := rfl
@[simp] theorem leaveCritical_disturbed : (leaveCritical s).disturbed = s.disturbed := rfl
@[simp] theorem leaveCritical_draws : (leaveCritical s).draws = s.draws := rfl

end

/-! ### endFrame -/

section

variable (s : State)

@[simp] theorem endFrame_cfg : (endFrame s).cfg = s.cfg := rfl
@[simp] theorem endFrame_host : (endFrame s).host = s.host := rfl
@[simp] theorem endFrame_env : (endFrame s).env = s.env := rfl
@[simp] theorem endFrame_nLeds : (endFrame s).nLeds = s.nLeds := rfl
@[simp] theorem endFrame_order : (endFrame s).order = s.order := rfl
@[simp] theorem endFrame_bufValid : (endFrame s).bufValid = s.bufValid := rfl
@[simp] theorem endFrame_buf : (endFrame s).buf = s.buf := rfl
@[simp] theorem endFrame_bright : (endFrame s).bright = s.bright := rfl
@[simp] theorem endFrame_fsm : (endFrame s).fsm = .ready := rfl
@[simp] theorem endFrame_pinId : (endFrame s).pinId = s.pinId := rfl
@[simp] theorem endFrame_pinHandle : (endFrame s).pinHandle = s.pinHandle := rfl
@[simp] theorem endFrame_pinMask : (endFrame s).pinMask = s.pinMask := rfl
@[simp] theorem endFrame_seq : (endFrame s).seq = .idle := rfl
@[simp] theorem endFrame_bytePtr : (endFrame s).bytePtr = s.bytePtr := rfl
@[simp] theorem endFrame_bitIdx : (endFrame s).bitIdx = s.bitIdx := rfl
@[simp] theorem endFrame_cnt : (endFrame s).cnt = s.cnt := rfl
@[simp] theorem endFrame_line : (endFrame s).line = s.line := rfl
@[simp] theorem endFrame_oe : (endFrame s).oe = s.oe := rfl
@[simp] theorem endFrame_crit : (endFrame s).crit = false := rfl
@[simp] theorem endFrame_mtSuspend : (endFrame s).mtSuspend = false := rfl
@[simp] theorem endFrame_glitched : (endFrame s).glitched = s.glitched := rfl
@[simp] theorem endFrame_executing : (endFrame s).executing = s.executing := rfl
@[simp] theorem endFrame_rsp : (endFrame s).rsp = s.rsp := rfl
@[simp] theorem endFrame_gpioPending : (endFrame s).gpioPending = s.gpioPending := rfl
@[simp] theorem endFrame_gpioEv : (endFrame s).gpioEv = s.gpioEv := rfl
@[simp] theorem endFrame_mtEv : (endFrame s).mtEv = some .resume := rfl
@[simp] theorem endFrame_out : (endFrame s).out = s.out := rfl
@[simp] theorem endFrame_mode : (endFrame s).mode = s.mode := rfl
@[simp] theorem endFrame_disturbed : (endFrame s).disturbed = s.disturbed := rfl
@[simp] theorem endFrame_draws : (endFrame s).draws = s.draws := rfl

end

/-! ### startGap -/

section

variable (s : State)

@[simp] theorem startGap_cfg : (startGap s).cfg = s.cfg := rfl
@[simp] theorem startGap_host : (startGap s).host = s.host := rfl
@[simp] theorem startGap_env : (startGap s).env = s.env := rfl
@[simp] theorem startGap_nLeds : (startGap s).nLeds = s.nLeds := rfl
@[simp] theorem startGap_order : (startGap s).order = s.order := rfl
@[simp] theorem startGap_bufValid : (startGap s).bufValid = s.bufValid := rfl
@[simp] theorem startGap_buf : (startGap s).buf = s.buf := rfl
@[simp] theorem startGap_bright : (startGap s).bright = s.bright := rfl
@[simp] theorem startGap_fsm : (startGap s).fsm = s.fsm := rfl
@[simp] theorem startGap_pinId : (startGap s).pinId = s.pinId := rfl
@[simp] theorem startGap_pinHandle : (startGap s).pinHandle = s.pinHandle := rfl
@[simp] theorem startGap_pinMask : (startGap s).pinMask = s.pinMask := rfl
@[simp] theorem startGap_seq : (startGap s).seq = .gap := rfl
@[simp] theorem startGap_bytePtr : (startGap s).bytePtr = s.bytePtr := rfl
@[simp] theorem startGap_bitIdx : (startGap s).bitIdx = s.bitIdx := rfl
@[simp] theorem startGap_cnt : (startGap s).cnt = s.cfg.profile.tres := rfl
@[simp] theorem startGap_line : (startGap s).line = s.line := rfl
@[simp] theorem startGap_oe : (startGap s).oe = s.oe := rfl
@[simp] theorem startGap_crit : (startGap s).crit = s.crit := rfl
@[simp] theorem startGap_mtSuspend : (startGap s).mtSuspend = s.mtSuspend := rfl
@[simp] theorem startGap_glitched : (startGap s).glitched = s.glitched := rfl
@[simp] theorem startGap_executing : (startGap s).executing = s.executing := rfl
@[simp] theorem startGap_rsp : (startGap s).rsp = s.rsp := rfl
@[simp] theorem startGap_gpioPending : (startGap s).gpioPending = s.gpioPending := rfl
@[simp] theorem startGap_gpioEv : (startGap s).gpioEv = s.gpioEv := rfl
@[simp] theorem startGap_mtEv : (startGap s).mtEv = s.mtEv := rfl
@[simp] theorem startGap_out : (startGap s).out = s.out := rfl
@[simp] theorem startGap_mode : (startGap s).mode = s.mode := rfl
@[simp] theorem startGap_disturbed : (startGap s).disturbed = s.disturbed := rfl
@[simp] theorem startGap_draws : (startGap s).draws = s.draws := rfl

end

/-! ### disturbedPosition -/

section

variable (d : Disturbance) (s : State)

@[simp] theorem disturbedPosition_cfg : (disturbedPosition d s).cfg = s.cfg := rfl
@[simp] theorem disturbedPosition_host : (disturbedPosition d s).host = s.host := rfl
@[simp] theorem disturbedPosition_env : (disturbedPosition d s).env = s.env := rfl
@[simp] theorem disturbedPosition_nLeds : (disturbedPosition d s).nLeds = s.nLeds := rfl
@[simp] theorem disturbedPosition_order : (disturbedPosition d s).order = s.order := rfl
@[simp] theorem disturbedPosition_bufValid : (disturbedPosition d s).bufValid = s.bufValid := rfl
@[simp] theorem disturbedPosition_buf : (disturbedPosition d s).buf = s.buf := rfl
@[simp] theorem disturbedPosition_bright : (disturbedPosition d s).bright = s.bright := rfl
@[simp] theorem disturbedPosition_fsm : (disturbedPosition d s).fsm = s.fsm := rfl
@[simp] theorem disturbedPosition_pinId : (disturbedPosition d s).pinId = s.pinId := rfl
@[simp] theorem disturbedPosition_pinHandle : (disturbedPosition d s).pinHandle = s.pinHandle := rfl
@[simp] theorem disturbedPosition_pinMask : (disturbedPosition d s).pinMask = s.pinMask := rfl
@[simp] theorem disturbedPosition_oe : (disturbedPosition d s).oe = s.oe := rfl
@[simp] theorem disturbedPosition_crit : (disturbedPosition d s).crit = s.crit := rfl
@[simp] theorem disturbedPosition_mtSuspend : (disturbedPosition d s).mtSuspend = s.mtSuspend := rfl
@[simp] theorem disturbedPosition_glitched : (disturbedPosition d s).glitched = s.glitched := rfl
@[simp] theorem disturbedPosition_executing : (disturbedPosition d s).executing = s.executing := rfl
@[simp] theorem disturbedPosition_rsp : (disturbedPosition d s).rsp = s.rsp := rfl
@[simp] theorem disturbedPosition_gpioPending : (disturbedPosition d s).gpioPending = s.gpioPending := rfl
@[simp] theorem disturbedPosition_gpioEv : (disturbedPosition d s).gpioEv = s.gpioEv := rfl
@[simp] theorem disturbedPosition_mtEv : (disturbedPosition d s).mtEv = s.mtEv := rfl
@[simp] theorem disturbedPosition_out : (disturbedPosition d s).out = s.out := rfl
@[simp] theorem disturbedPosition_mode : (disturbedPosition d s).mode = s.mode := rfl
@[simp] theorem disturbedPosition_disturbed : (disturbedPosition d s).disturbed = s.disturbed := rfl
@[simp] theorem disturbedPosition_draws : (disturbedPosition d s).draws = s.draws := rfl

end

/-! ### tick -/

section

variable (s : State)

@[simp] theorem tick_cfg : (tick s).cfg = s.cfg := rfl
@[simp] theorem tick_host : (tick s).host = s.host := rfl
@[simp] theorem tick_env : (tick s).env = s.env.tail := rfl
@[simp] theorem tick_nLeds : (tick s).nLeds = s.nLeds := rfl
@[simp] theorem tick_order : (tick s).order = s.order := rfl
@[simp] theorem tick_bufValid : (tick s).bufValid = s.bufValid := rfl
@[simp] theorem tick_buf : (tick s).buf = s.buf := rfl
@[simp] theorem tick_bright : (tick s).bright = s.bright := rfl
@[simp] theorem tick_fsm : (tick s).fsm = s.fsm := rfl
@[simp] theorem tick_pinId : (tick s).pinId = s.pinId := rfl
@[simp] theorem tick_pinHandle : (tick s).pinHandle = s.pinHandle := rfl
@[simp] theorem tick_pinMask : (tick s).pinMask = s.pinMask := rfl
@[simp] theorem tick_seq : (tick s).seq = s.seq := rfl
@[simp] theorem tick_bytePtr : (tick s).bytePtr = s.bytePtr := rfl
@[simp] theorem tick_bitIdx : (tick s).bitIdx = s.bitIdx := rfl
@[simp] theorem tick_cnt : (tick s).cnt = s.cnt := rfl
@[simp] theorem tick_line : (tick s).line = s.line := rfl
@[simp] theorem tick_oe : (tick s).oe = s.oe := rfl
@[simp] theorem tick_crit : (tick s).crit = s.crit := rfl
@[simp] theorem tick_mtSuspend : (tick s).mtSuspend = s.mtSuspend := rfl
@[simp] theorem tick_glitched : (tick s).glitched = s.glitched := rfl
@[simp] theorem tick_executing : (tick s).executing = s.executing := rfl
@[simp] theorem tick_rsp : (tick s).rsp = advanceRsp s.rsp := rfl
@[simp] theorem tick_gpioPending : (tick s).gpioPending = s.gpioPending := rfl
@[simp] theorem tick_gpioEv : (tick s).gpioEv = none := rfl
@[simp] theorem tick_mtEv : (tick s).mtEv = none := rfl
@[simp] theorem tick_out : (tick s).out = s.out := rfl
@[simp] theorem tick_mode : (tick s).mode = s.mode := rfl
@[simp] theorem tick_disturbed : (tick s).disturbed = s.disturbed := rfl
@[simp] theorem tick_draws : (tick s).draws = s.draws := rfl

end

/-! ### taken -/

section

variable (rest : List Offer) (s : State)

@[simp] theorem taken_cfg : (taken rest s).cfg = s.cfg := rfl
@[simp] theorem taken_host : (taken rest s).host = rest := rfl
@[simp] theorem taken_env : (taken rest s).env = s.env.tail := rfl
@[simp] theorem taken_nLeds : (taken rest s).nLeds = s.nLeds := rfl
@[simp] theorem taken_order : (taken rest s).order = s.order := rfl
@[simp] theorem taken_bufValid : (taken rest s).bufValid = s.bufValid := rfl
@[simp] theorem taken_buf : (taken rest s).buf = s.buf := rfl
@[simp] theorem taken_bright : (taken rest s).bright = s.bright := rfl
@[simp] theorem taken_fsm : (taken rest s).fsm = s.fsm := rfl
@[simp] theorem taken_pinId : (taken rest s).pinId = s.pinId := rfl
@[simp] theorem taken_pinHandle : (taken rest s).pinHandle = s.pinHandle := rfl
@[simp] theorem taken_pinMask : (taken rest s).pinMask = s.pinMask := rfl
@[simp] theorem taken_seq : (taken rest s).seq = s.seq := rfl
@[simp] theorem taken_bytePtr : (taken rest s).bytePtr = s.bytePtr := rfl
@[simp] theorem taken_bitIdx : (taken rest s).bitIdx = s.bitIdx := rfl
@[simp] theorem taken_cnt : (taken rest s).cnt = s.cnt := rfl
@[simp] theorem taken_line : (taken rest s).line = s.line := rfl
@[simp] theorem taken_oe : (taken rest s).oe = s.oe := rfl
@[simp] theorem taken_crit : (taken rest s).crit = s.crit := rfl
@[simp] theorem taken_mtSuspend : (taken rest s).mtSuspend = s.mtSuspend := rfl
@[simp] theorem taken_glitched : (taken rest s).glitched = s.glitched := rfl
@[simp] theorem taken_executing : (taken rest s).executing = s.executing := rfl
@[simp] theorem taken_rsp : (taken rest s).rsp = advanceRsp s.rsp := rfl
@[simp] theorem taken_gpioPending : (taken rest s).gpioPending = s.gpioPending := rfl
@[simp] theorem taken_gpioEv : (taken rest s).gpioEv = none := rfl
@[simp] theorem taken_mtEv : (taken rest s).mtEv = none := rfl
@[simp] theorem taken_out : (taken rest s).out = s.out := rfl
@[simp] theorem taken_mode : (taken rest s).mode = s.mode := rfl
@[simp] theorem taken_disturbed : (taken rest s).disturbed = s.disturbed := rfl
@[simp] theorem taken_draws : (taken rest s).draws = s.draws := rfl

end

end Sys2Proof.Machine
end

