-- ==== Sys2Proof/Laws/Table.lean ====
section
/-! SUPPORT. The laws of tables: a read after a write, and every operation keeps the canonical form; and, from them, the laws
of the pixel buffer, of the GPIO registers and of the pin modes. -/

namespace Sys2Proof.Machine

open Sys2Proof

section

variable {β : Type} (d : β)

theorem tableGet_erase (m : Table β) (a b : Nat) :
    tableGet d (tableErase m a) b = if b = a then d else tableGet d m b := by
  induction m with
  | nil => simp [tableErase, tableGet]
  | cons c m ih =>
    unfold tableErase at ih ⊢
    by_cases hc : c.1 = a <;> by_cases hb : b = a <;> simp_all [tableGet]
    intro h; exact absurd h.symm hb

theorem mem_tableErase {m : Table β} {a : Nat} {c : Nat × β} : c ∈ tableErase m a ↔ c ∈ m ∧ c.1 ≠ a := by
  simp [tableErase]

theorem mem_tableInsert {m : Table β} {a : Nat} {v : β} {c : Nat × β} :
    c ∈ tableInsert m a v ↔ c = (a, v) ∨ c ∈ m := by
  induction m with
  | nil => simp [tableInsert]
  | cons e m ih =>
    simp only [tableInsert]
    split
    · simp
    · simp only [List.mem_cons, ih]; tauto

theorem tableGet_insert (m : Table β) (a b : Nat) (v : β) (h : ∀ c ∈ m, c.1 ≠ a) :
    tableGet d (tableInsert m a v) b = if b = a then v else tableGet d m b := by
  induction m with
  | nil => simp [tableInsert, tableGet, eq_comm]
  | cons c m ih =>
    have hc : c.1 ≠ a := h c (by simp)
    have ih := ih fun e he => h e (by simp [he])
    simp only [tableInsert]
    split
    · simp [tableGet, eq_comm]
    · simp only [tableGet, ih]
      by_cases hb : b = a
      · simp [hb, hc]
      · simp [hb]

/-- A read after a write: the value written there, what was there everywhere else. -/
theorem tableGet_set [DecidableEq β] (m : Table β) (a b : Nat) (v : β) :
    tableGet d (tableSet d m a v) b = if b = a then v else tableGet d m b := by
  unfold tableSet
  split
  · next h => rw [tableGet_erase, h]
  · rw [tableGet_insert d _ _ _ _ fun c hc => (mem_tableErase.1 hc).2, tableGet_erase]
    split <;> rfl

variable [DecidableEq β]

theorem tableWf_erase {m : Table β} {a : Nat} (h : tableWf d m = true) : tableWf d (tableErase m a) = true := by
  induction m with
  | nil => rfl
  | cons c m ih =>
    simp only [tableWf, Bool.and_eq_true, List.all_eq_true] at h
    have ih := ih h.2
    unfold tableErase at ih ⊢
    by_cases hc : c.1 = a
    · simpa [hc] using ih
    · simp only [bne_iff_ne, ne_eq, hc, not_false_eq_true, List.filter_cons_of_pos, tableWf, Bool.and_eq_true,
        List.all_eq_true]
      refine ⟨⟨by simpa using h.1.1, fun e he => h.1.2 e (List.mem_filter.1 he).1⟩, ih⟩

theorem tableWf_insert {m : Table β} {a : Nat} {v : β} (hv : v ≠ d) (h : tableWf d m = true) (ha : ∀ c ∈ m, c.1 ≠ a) :
    tableWf d (tableInsert m a v) = true := by
  induction m with
  | nil => simp [tableInsert, tableWf, hv]
  | cons c m ih =>
    have hca : c.1 ≠ a := ha c (by simp)
    have ha' : ∀ e ∈ m, e.1 ≠ a := fun e he => ha e (by simp [he])
    have h' := h
    simp only [tableWf, Bool.and_eq_true, List.all_eq_true, decide_eq_true_eq] at h'
    have ih := ih h'.2 ha'
    simp only [tableInsert]
    split
    · next hlt =>
      simp only [tableWf, Bool.and_eq_true, List.all_eq_true, decide_eq_true_eq]
      refine ⟨⟨by simpa using hv, ?_⟩, h'⟩
      intro e he
      rcases List.mem_cons.1 he with rfl | he
      · exact hlt
      · exact lt_trans hlt (h'.1.2 e he)
    · next hlt =>
      simp only [tableWf, Bool.and_eq_true, List.all_eq_true, decide_eq_true_eq]
      refine ⟨⟨h'.1.1, ?_⟩, ih⟩
      intro e he
      rcases mem_tableInsert.1 he with rfl | he
      · show c.1 < a
        omega
      · exact h'.1.2 e he

/-- A write keeps the canonical form. -/
theorem tableWf_set {m : Table β} (a : Nat) (v : β) (h : tableWf d m = true) : tableWf d (tableSet d m a v) = true := by
  unfold tableSet
  split
  · exact tableWf_erase d h
  · next hv => exact tableWf_insert d hv (tableWf_erase d h) fun c hc => (mem_tableErase.1 hc).2

/-- A write lists no key but the one written and those listed before. -/
theorem mem_tableSet {m : Table β} {a : Nat} {v : β} {c : Nat × β} (h : c ∈ tableSet d m a v) : c.1 = a ∨ c ∈ m := by
  unfold tableSet at h
  split at h
  · exact .inr (mem_tableErase.1 h).1
  · rcases mem_tableInsert.1 h with rfl | h
    · exact .inl rfl
    · exact .inr (mem_tableErase.1 h).1

end

/-! ## The pixel buffer -/

/-- R69: a write changes only the byte written. -/
theorem bufGet_bufSet (m : Memory) (a b : Nat) (v : Byte) :
    bufGet (bufSet m a v) b = if b = a then v else bufGet m b :=
  tableGet_set 0 m a b v

theorem memory_wf_bufSet {m : Memory} (a : Nat) (v : Byte) (h : Memory.wf m = true) : Memory.wf (bufSet m a v) = true :=
  tableWf_set 0 a v h

theorem mem_bufSet {m : Memory} {a : Nat} {v : Byte} {c : Host.Cell} (h : c ∈ bufSet m a v) : c.1 = a ∨ c ∈ m :=
  mem_tableSet 0 h

theorem bufGet_nil (a : Nat) : bufGet [] a = 0 := rfl

/-- The pass of SETBRT (R205): every byte below `n` is replaced, every other is kept. -/
theorem bufGet_mapBytes (f : Byte → Byte) (n : Nat) (m : Memory) (a : Nat) :
    bufGet (mapBytes f n m) a = if a < n then f (bufGet m a) else bufGet m a := by
  induction n with
  | zero => simp [mapBytes]
  | succ n ih =>
    simp only [mapBytes, bufGet_bufSet]
    by_cases ha : a = n
    · subst ha
      simp [ih]
    · have : a < n + 1 ↔ a < n := by omega
      simp [ha, ih, this]

theorem memory_wf_mapBytes (f : Byte → Byte) (n : Nat) {m : Memory} (h : Memory.wf m = true) :
    Memory.wf (mapBytes f n m) = true := by
  induction n with
  | zero => exact h
  | succ n ih => exact memory_wf_bufSet _ _ ih

theorem mem_mapBytes {f : Byte → Byte} {n : Nat} {m : Memory} {c : Host.Cell} (h : c ∈ mapBytes f n m) :
    c.1 < n ∨ c ∈ m := by
  induction n with
  | zero => exact .inr h
  | succ n ih =>
    rcases mem_bufSet h with h | h
    · exact .inl (by omega)
    · rcases ih h with h | h
      · exact .inl (by omega)
      · exact .inr h

/-- Everything `memRead` can do (R61). -/
theorem memRead_of_lt {s : State} {a : Nat} (h : a < nBytes s) : memRead s a = .ok (bufGet s.buf a) := by
  simp [memRead, h]

/-- Everything `memWrite` can do (R61). -/
theorem memWrite_of_lt {s : State} {a : Nat} (v : Byte) (h : a < nBytes s) :
    memWrite s a v = .ok { s with buf := bufSet s.buf a v } := by
  simp [memWrite, h]

/-- A write that is no fault keeps the canonical form. -/
theorem memory_wf_memWrite {s t : State} {a : Nat} {v : Byte} (hs : Memory.wf s.buf = true) (h : memWrite s a v = .ok t) :
    Memory.wf t.buf = true := by
  unfold memWrite at h
  split at h
  · cases h; exact memory_wf_bufSet a v hs
  · cases h

/-- The buffer after reset is in canonical form, whatever the parameters and straps. -/
theorem memory_wf_initial (c : Config) (st : Straps) (o : ChannelOrder) : Memory.wf (State.initial c st o).buf = true := rfl

theorem memory_wf_reset : Memory.wf State.reset.buf = true := rfl

/-- Everything `memBit` can do (R34). -/
theorem memBit_of_lt {s : State} {p : Nat} (i : Nat) (h : p < nBytes s) :
    memBit s p i = .ok ((bufGet s.buf p).getLsbD i) := by
  simp [memBit, memRead_of_lt h]

/-! ## The GPIO space -/

theorem portGet_portSet (o : Table PortReg) (h k : Handle) (r : PortReg) :
    portGet (portSet o h r) k = if k = h then r else portGet o k :=
  tableGet_set _ o h k r

theorem modeGet_modeSet (o : Table (Option PinMode)) (p q : PinId) (m : Option PinMode) :
    modeGet (modeSet o p m) q = if q = p then m else modeGet o q := by
  unfold modeGet modeSet
  rw [tableGet_set]
  simp [BitVec.toNat_inj]

end Sys2Proof.Machine
end

