-- ==== Sys2Proof/Laws/Exec.lean ====
section
/-! SUPPORT. Everything the shared operations of the commands can do: the pixel operations (R172, R174), the brightness
arithmetic (R201), the pin table (R7), and which fields a command can write. -/

namespace Sys2Proof.Machine

open Sys2Proof

/-! ## Pixels -/

theorem rOff_lt (o : ChannelOrder) : rOff o < 3 := by cases o <;> decide
theorem gOff_lt (o : ChannelOrder) : gOff o < 3 := by cases o <;> decide
theorem bOff_lt (o : ChannelOrder) : bOff o < 3 := by cases o <;> decide

/-- R63: the three channels stand at three different addresses. -/
theorem offsets_distinct (o : ChannelOrder) : rOff o ≠ gOff o ∧ rOff o ≠ bOff o ∧ gOff o ≠ bOff o := by
  cases o <;> decide

theorem pixelInRange_iff {s : State} {i : PixIndex} :
    pixelInRange s i = true ↔ s.bufValid = true ∧ i.toNat < s.nLeds.toNat := by
  simp [pixelInRange, BitVec.lt_def]

/-- R62: the bytes of a pixel in range are bytes of the buffer. -/
theorem base_add_lt {s : State} {i : PixIndex} {k : Nat} (h : pixelInRange s i = true) (hk : k < 3) :
    base i + k < nBytes s := by
  have := (pixelInRange_iff.1 h).2
  unfold base nBytes
  omega

/-- The buffer with a pixel's three bytes written (R172). -/
def bufWithPixel (s : State) (i : PixIndex) (r g b : Byte) : Memory :=
  bufSet (bufSet (bufSet s.buf (base i + rOff s.order) (scaleW s.bright r)) (base i + gOff s.order) (scaleW s.bright g))
    (base i + bOff s.order) (scaleW s.bright b)

/-- Everything `putPixel` can do: it never faults. -/
theorem putPixel_eq (i : PixIndex) (r g b : Byte) (s : State) :
    putPixel i r g b s = .ok (if pixelInRange s i then { s with buf := bufWithPixel s i r g b } else s) := by
  unfold putPixel
  split
  · next h =>
    have hr : _ < 3 * s.nLeds.toNat := base_add_lt h (rOff_lt s.order)
    have hg : _ < 3 * s.nLeds.toNat := base_add_lt h (gOff_lt s.order)
    have hb : _ < 3 * s.nLeds.toNat := base_add_lt h (bOff_lt s.order)
    simp [bind, Except.bind, memWrite, nBytes, hr, hg, hb, bufWithPixel]
  · rfl

/-- Everything `pixelColor` can do: it never faults. -/
theorem pixelColor_eq (i : PixIndex) (s : State) :
    pixelColor i s = .ok (if pixelInRange s i then
      packColor (bufGet s.buf (base i + rOff s.order)) (bufGet s.buf (base i + gOff s.order))
        (bufGet s.buf (base i + bOff s.order)) else 0) := by
  unfold pixelColor
  split
  · next h =>
    simp only
    rw [memRead_of_lt (base_add_lt h (rOff_lt _)), memRead_of_lt (base_add_lt h (gOff_lt _)),
      memRead_of_lt (base_add_lt h (bOff_lt _))]
    rfl
  · rfl

/-! ## Brightness -/

/-- R201: no wrap-around. -/
theorem newStored_toNat (level : Byte) : (newStored level).toNat = level.toNat + 1 := by
  have := level.isLt
  have h1 : (1 : BitVec 9).toNat = 1 := rfl
  simp only [newStored, BitVec.toNat_add, BitVec.toNat_setWidth, h1]
  omega

theorem newStored_ne_zero (level : Byte) : newStored level ≠ 0 := by
  intro h
  have := congrArg BitVec.toNat h
  rw [newStored_toNat] at this
  simp at this

/-! ## The pin table -/

theorem isOneHot_ne_zero {w m : Nat} (h : isOneHot w m = true) : m ≠ 0 := by
  obtain ⟨j, -, hj⟩ := List.any_eq_true.1 h
  have : m = 2 ^ j := by simpa using hj
  subst this
  positivity

/-- R7: in a well-formed configuration a resolved mask is not empty. -/
theorem resolve_mask_ne_zero {c : Config} {p : PinId} {h : Handle} {m : PortValue} (hc : c.wf = true)
    (hr : resolve c p = some (h, m)) : m ≠ 0 := by
  unfold resolve at hr
  obtain ⟨r, hf, he⟩ := Option.map_eq_some_iff.1 hr
  have hm := List.mem_of_find?_eq_some hf
  simp only [Config.wf, Bool.and_eq_true] at hc
  have := List.all_eq_true.1 hc.1.1.2 r hm
  simp only [Prod.mk.injEq] at he
  rw [← he.2]
  exact isOneHot_ne_zero this

/-! ## What a command can write -/

/-- What the commands other than SHOW answer: always a next state. -/
def resultOf (i : Instr) (s : State) : State :=
  match i with
  | .beginBind =>
    match resolve s.cfg s.pinId with
    | none => s
    | some (h, m) => { s with
        pinHandle := some h, pinMask := some m, oe := true, line := false, fsm := .ready,
        gpioPending := s.gpioPending ++ [.mode s.pinId .output, .clr h m] }
  | .endBind => { s with
      oe := false, fsm := .unbound,
      gpioPending := s.gpioPending ++ (if (resolve s.cfg s.pinId).isSome then [.mode s.pinId .input] else []) }
  | .setPin p =>
    match resolve s.cfg p with
    | none => s
    | some (h, m) =>
      if s.fsm = .ready then { s with
        pinId := p, pinHandle := some h, pinMask := some m, line := false,
        gpioPending := s.gpioPending ++ [.mode s.pinId .input, .mode p .output, .clr h m] }
      else { s with pinId := p }
  | .setPix3 i r g b => if pixelInRange s i then { s with buf := bufWithPixel s i r g b } else s
  | .setPixP i c =>
    if pixelInRange s i then { s with buf := bufWithPixel s i (redOf c) (greenOf c) (blueOf c) } else s
  | .getPix i => { s with rsp := some { wait := 0, value := (if pixelInRange s i then
      packColor (bufGet s.buf (base i + rOff s.order)) (bufGet s.buf (base i + gOff s.order))
        (bufGet s.buf (base i + bOff s.order)) else 0) } }
  | .numPix => { s with rsp := some { value := s.nLeds.setWidth 24, wait := 0 } }
  | .setBrt l =>
    if s.bufValid = true ∧ newStored l ≠ s.bright then { s with
      buf := mapBytes (rescaleByte (rescaleFactor (newStored l) s.bright)) (nBytes s) s.buf, bright := newStored l }
    else s
  | .showFrame => s
  | .color r g b => { s with rsp := some { value := packColor r g b, wait := 0 } }

/-- Every command but SHOW answers a next state in every state. -/
theorem exec_eq_resultOf (i : Instr) (s : State) (hi : i ≠ .showFrame) : exec i s = .next (resultOf i s) := by
  cases i with
  | showFrame => exact absurd rfl hi
  | beginBind => simp only [exec, execBegin, resultOf]; split <;> simp_all [emit, bindPin]
  | endBind => simp only [exec, execEnd, resultOf]; split <;> simp_all [emit]
  | setPin p => simp only [exec, execSetPin, resultOf]; split <;> simp_all [emit, bindPin]; split <;> rfl
  | setPix3 i r g b => simp [exec, execSetPix3, putPixel_eq, ofExcept, resultOf]
  | setPixP i c => simp [exec, execSetPixP, putPixel_eq, ofExcept, resultOf]
  | getPix i => simp [exec, execGetPix, pixelColor_eq, respond, resultOf]
  | numPix => rfl
  | setBrt l => simp only [exec, execSetBrt, resultOf]; split <;> rfl
  | color r g b => rfl

/-- The state in which SHOW has started the first bit of a frame (R131). -/
def frameStart (h : Handle) (m : PortValue) (s : State) : State := { s with
  fsm := .transmitting, crit := true, mtSuspend := true, mtEv := some .suspend,
  seq := .hi, bytePtr := 0, bitIdx := 7, line := true,
  cnt := highTime s.cfg.profile ((bufGet s.buf 0).getLsbD 7), gpioPending := s.gpioPending ++ [.set h m] }

/-- The state in which SHOW has started the gap of an empty frame (R141). -/
def emptyFrameStart (s : State) : State := { s with
  fsm := .transmitting, crit := true, mtSuspend := true, mtEv := some .suspend,
  seq := .gap, bytePtr := 0, bitIdx := 7, cnt := s.cfg.profile.tres }

/-- Everything SHOW can do (R131). -/
theorem execShow_cases (s : State) :
    ((s.fsm ≠ .ready ∨ s.bufValid = false) ∧ exec .showFrame s = .next s) ∨
    (s.fsm = .ready ∧ s.bufValid = true ∧ s.nLeds = 0 ∧ exec .showFrame s = .next (emptyFrameStart s)) ∨
    (s.fsm = .ready ∧ s.bufValid = true ∧ s.nLeds ≠ 0 ∧
      ((∃ h m, s.pinHandle = some h ∧ s.pinMask = some m ∧ exec .showFrame s = .next (frameStart h m s)) ∨
       ((s.pinHandle = none ∨ s.pinMask = none) ∧ exec .showFrame s = .fault .bindingNoValue))) := by
  by_cases hf : s.fsm = .ready
  swap
  · exact .inl ⟨.inl hf, by simp [exec, execShow, hf]⟩
  cases hb : s.bufValid
  · exact .inl ⟨.inr rfl, by simp [exec, execShow, hf, hb]⟩
  by_cases hn : s.nLeds = 0
  · refine .inr (.inl ⟨hf, rfl, hn, ?_⟩)
    simp [exec, execShow, hf, hb, nBytes, hn, emptyFrameStart, startGap, enterCritical]
  · refine .inr (.inr ⟨hf, rfl, hn, ?_⟩)
    have hn' : s.nLeds.toNat ≠ 0 := fun h => hn (BitVec.eq_of_toNat_eq (by simpa using h))
    have h0 : 0 < 3 * s.nLeds.toNat := by omega
    cases hh : s.pinHandle with
    | none =>
      refine .inr ⟨.inl rfl, ?_⟩
      simp [exec, execShow, hf, hb, nBytes, hn', startBit, memBit, memRead, bind, Except.bind, boundPin, hh, ofExcept, h0]
    | some h =>
      cases hm : s.pinMask with
      | none =>
        refine .inr ⟨.inr rfl, ?_⟩
        simp [exec, execShow, hf, hb, nBytes, hn', startBit, memBit, memRead, bind, Except.bind, boundPin, hh, hm,
          ofExcept, h0]
      | some m =>
        refine .inl ⟨h, m, rfl, rfl, ?_⟩
        simp [exec, execShow, hf, hb, nBytes, hn', startBit, memBit, memRead, bind, Except.bind, boundPin, hh, hm,
          ofExcept, h0, emit, frameStart, enterCritical]

end Sys2Proof.Machine
end

