-- ==== Sys2Proof/Laws/PerInstr.lean ====
section
/-! SUPPORT. What holds of every command as syntax, one lemma per command: the encoder writes its opcode and leaves every bit
it does not use 0 (R93, R94). -/

namespace Sys2Proof.Laws.EncodesCanonically

open Sys2Proof

/-- The word of a command is canonical and carries the command's opcode. -/
def Statement (i : Instr) : Prop := canonical (encode i) = true ∧ opOf (encode i) = opcode i

/-- A word is canonical if the mask of its opcode meets no bit of it. -/
theorem canonical_of_bits (op : BitVec 4) (idx : PixIndex) (data : Color)
    (h : ∀ j, j < 44 → ((commandWord op idx data).getLsbD j && (unusedBits op).getLsbD j) = false) :
    canonical (commandWord op idx data) = true := by
  simp only [canonical, opOf_commandWord, beq_iff_eq]
  apply BitVec.eq_of_getLsbD_eq
  intro j hj
  simpa using h j hj

theorem beginBind : Statement .beginBind := by unfold Statement; decide
theorem endBind : Statement .endBind := by unfold Statement; decide
theorem numPix : Statement .numPix := by unfold Statement; decide
theorem showFrame : Statement .showFrame := by unfold Statement; decide

theorem setPin (pin : PinId) : Statement (.setPin pin) := by
  refine ⟨canonical_of_bits _ _ _ fun j hj => ?_, opOf_commandWord _ _ _⟩
  rw [getLsbD_commandWord, getLsbD_packColor]
  interval_cases j <;> simp [unusedBits]

theorem setBrt (level : Byte) : Statement (.setBrt level) := by
  refine ⟨canonical_of_bits _ _ _ fun j hj => ?_, opOf_commandWord _ _ _⟩
  rw [getLsbD_commandWord, getLsbD_packColor]
  interval_cases j <;> simp [unusedBits]

theorem getPix (index : PixIndex) : Statement (.getPix index) := by
  refine ⟨canonical_of_bits _ _ _ fun j hj => ?_, opOf_commandWord _ _ _⟩
  rw [getLsbD_commandWord]
  interval_cases j <;> simp [unusedBits]

theorem color (r g b : Byte) : Statement (.color r g b) := by
  refine ⟨canonical_of_bits _ _ _ fun j hj => ?_, opOf_commandWord _ _ _⟩
  rw [getLsbD_commandWord]
  interval_cases j <;> simp [unusedBits]

theorem setPix3 (index : PixIndex) (r g b : Byte) : Statement (.setPix3 index r g b) :=
  ⟨canonical_of_bits _ _ _ fun j _ => by simp [unusedBits], opOf_commandWord _ _ _⟩

theorem setPixP (index : PixIndex) (c : Color) : Statement (.setPixP index c) :=
  ⟨canonical_of_bits _ _ _ fun j _ => by simp [unusedBits], opOf_commandWord _ _ _⟩

end Sys2Proof.Laws.EncodesCanonically
end

