-- ==== Sys2Proof/Laws/Ports.lean ====
section
/-! SUPPORT. Everything the GPIO operations and the end of a cycle can do (R261 to R264). -/

namespace Sys2Proof.Machine

open Sys2Proof

/-! ## Bits of a register -/

theorem or_and_self (a m : Nat) : (a ||| m) &&& m = m := by
  apply Nat.eq_of_testBit_eq; intro i
  simp only [Nat.testBit_and, Nat.testBit_or]
  cases a.testBit i <;> cases m.testBit i <;> rfl

theorem andNot_and_self (a m : Nat) : andNot a m &&& m = 0 := by
  apply Nat.eq_of_testBit_eq; intro i
  simp only [andNot, Nat.testBit_and, Nat.testBit_xor, Nat.zero_testBit]
  cases a.testBit i <;> cases m.testBit i <;> rfl

theorem or_and_disjoint {a n m : Nat} (h : n &&& m = 0) : (a ||| n) &&& m = a &&& m := by
  apply Nat.eq_of_testBit_eq; intro i
  have h := congrArg (Nat.testBit · i) h
  simp only [Nat.testBit_and, Nat.testBit_or, Nat.zero_testBit] at h ⊢
  revert h; cases a.testBit i <;> cases m.testBit i <;> cases n.testBit i <;> simp

theorem andNot_and_disjoint {a n m : Nat} (h : n &&& m = 0) : andNot a n &&& m = a &&& m := by
  apply Nat.eq_of_testBit_eq; intro i
  have h := congrArg (Nat.testBit · i) h
  simp only [andNot, Nat.testBit_and, Nat.testBit_xor, Nat.zero_testBit] at h ⊢
  revert h; cases a.testBit i <;> cases m.testBit i <;> cases n.testBit i <;> simp

/-- The event writes the bit `m` of `OUT[h]`. -/
def touches (h : Handle) (m : PortValue) : GpioEvent → Bool
  | .mode _ _ => false
  | .set k n | .clr k n => k == h && (n &&& m != 0)

/-- R263: `OUT[h] OR mask` raises the bit. -/
theorem outBit_set (s : State) (h : Handle) (m : PortValue) (hm : m ≠ 0) :
    outBit (applyGpio (.set h m) s).out h m = some true := by
  simp [outBit, applyGpio, portGet_portSet, or_and_self, hm]

/-- R263: `OUT[h] AND NOT mask` drops the bit. -/
theorem outBit_clr (s : State) (h : Handle) (m : PortValue) :
    outBit (applyGpio (.clr h m) s).out h m = some false := by
  simp [outBit, applyGpio, portGet_portSet, or_and_self, andNot_and_self]

/-- R263: every other bit keeps its value. -/
theorem outBit_applyGpio (s : State) (e : GpioEvent) (h : Handle) (m : PortValue) (ht : touches h m e = false) :
    outBit (applyGpio e s).out h m = outBit s.out h m := by
  cases e with
  | mode p n => rfl
  | set k n =>
    simp only [outBit, applyGpio, portGet_portSet]
    by_cases hk : h = k
    · subst hk
      have : n &&& m = 0 := by simpa [touches] using ht
      simp [or_and_disjoint this]
    · simp [hk]
  | clr k n =>
    simp only [outBit, applyGpio, portGet_portSet]
    by_cases hk : h = k
    · subst hk
      have : n &&& m = 0 := by simpa [touches] using ht
      simp [or_and_disjoint this, andNot_and_disjoint this]
    · simp [hk]

/-! ## The end of a cycle -/

/-- `t` is `s` but for the GPIO space. -/
def SameButGpio (s t : State) : Prop := ∃ o m, t = { s with out := o, mode := m }

theorem SameButGpio.trans {s t u : State} (h : SameButGpio s t) (h' : SameButGpio t u) : SameButGpio s u := by
  obtain ⟨o, m, rfl⟩ := h
  obtain ⟨o', m', rfl⟩ := h'
  exact ⟨o', m', rfl⟩

theorem SameButGpio.eq {s t : State} (h : SameButGpio s t) : t = { s with out := t.out, mode := t.mode } := by
  obtain ⟨o, m, rfl⟩ := h
  rfl

theorem applyGpio_same (e : GpioEvent) (s : State) : SameButGpio s (applyGpio e s) := by
  cases e <;> exact ⟨_, _, rfl⟩

theorem forgetGpio_same (e : GpioEvent) (s : State) : SameButGpio s (forgetGpio e s) := by
  cases e <;> exact ⟨_, _, rfl⟩

theorem applyOther_same (s : State) (e : GpioEvent) : SameButGpio s (applyOther s e) := by
  unfold applyOther
  split
  · exact applyGpio_same e s
  · split
    · exact (applyGpio_same e s).trans (forgetGpio_same _ _)
    · exact applyGpio_same e s

theorem foldl_applyOther_same (es : List GpioEvent) (s : State) : SameButGpio s (es.foldl applyOther s) := by
  induction es generalizing s with
  | nil => exact ⟨_, _, rfl⟩
  | cons e es ih => exact (applyOther_same s e).trans (ih _)

/-- The event of the cycle: the oldest one still to be issued. -/
def eventIssued (s : State) : Option GpioEvent :=
  match s.gpioPending with
  | [] => s.gpioEv
  | e :: _ => some e

theorem issueGpio_same (s : State) :
    SameButGpio { s with gpioPending := s.gpioPending.tail, gpioEv := eventIssued s } (issueGpio s) := by
  unfold issueGpio eventIssued
  split
  · next h => exact ⟨s.out, s.mode, by cases s; cases h; rfl⟩
  · next h => rw [h]; exact applyGpio_same _ _

/-- Everything the end of a cycle does: one event is issued, and only the GPIO space changes with it. -/
theorem closeCycle_same (os : List GpioEvent) (s : State) :
    SameButGpio { s with gpioPending := s.gpioPending.tail, gpioEv := eventIssued s } (closeCycle os s) :=
  (issueGpio_same s).trans (foldl_applyOther_same os _)

section

variable (os : List GpioEvent) (s : State)

@[simp] theorem closeCycle_gpioPending : (closeCycle os s).gpioPending = s.gpioPending.tail := by rw [(closeCycle_same os s).eq]
@[simp] theorem closeCycle_gpioEv : (closeCycle os s).gpioEv = eventIssued s := by rw [(closeCycle_same os s).eq]
@[simp] theorem closeCycle_cfg : (closeCycle os s).cfg = s.cfg := by rw [(closeCycle_same os s).eq]
@[simp] theorem closeCycle_host : (closeCycle os s).host = s.host := by rw [(closeCycle_same os s).eq]
@[simp] theorem closeCycle_env : (closeCycle os s).env = s.env := by rw [(closeCycle_same os s).eq]
@[simp] theorem closeCycle_nLeds : (closeCycle os s).nLeds = s.nLeds := by rw [(closeCycle_same os s).eq]
@[simp] theorem closeCycle_order : (closeCycle os s).order = s.order := by rw [(closeCycle_same os s).eq]
@[simp] theorem closeCycle_bufValid : (closeCycle os s).bufValid = s.bufValid := by rw [(closeCycle_same os s).eq]
@[simp] theorem closeCycle_buf : (closeCycle os s).buf = s.buf := by rw [(closeCycle_same os s).eq]
@[simp] theorem closeCycle_bright : (closeCycle os s).bright = s.bright := by rw [(closeCycle_same os s).eq]
@[simp] theorem closeCycle_fsm : (closeCycle os s).fsm = s.fsm := by rw [(closeCycle_same os s).eq]
@[simp] theorem closeCycle_pinId : (closeCycle os s).pinId = s.pinId := by rw [(closeCycle_same os s).eq]
@[simp] theorem closeCycle_pinHandle : (closeCycle os s).pinHandle = s.pinHandle := by rw [(closeCycle_same os s).eq]
@[simp] theorem closeCycle_pinMask : (closeCycle os s).pinMask = s.pinMask := by rw [(closeCycle_same os s).eq]
@[simp] theorem closeCycle_seq : (closeCycle os s).seq = s.seq := by rw [(closeCycle_same os s).eq]
@[simp] theorem closeCycle_bytePtr : (closeCycle os s).bytePtr = s.bytePtr := by rw [(closeCycle_same os s).eq]
@[simp] theorem closeCycle_bitIdx : (closeCycle os s).bitIdx = s.bitIdx := by rw [(closeCycle_same os s).eq]
@[simp] theorem closeCycle_cnt : (closeCycle os s).cnt = s.cnt := by rw [(closeCycle_same os s).eq]
@[simp] theorem closeCycle_line : (closeCycle os s).line = s.line := by rw [(closeCycle_same os s).eq]
@[simp] theorem closeCycle_oe : (closeCycle os s).oe = s.oe := by rw [(closeCycle_same os s).eq]
@[simp] theorem closeCycle_crit : (closeCycle os s).crit = s.crit := by rw [(closeCycle_same os s).eq]
@[simp] theorem closeCycle_mtSuspend : (closeCycle os s).mtSuspend = s.mtSuspend := by rw [(closeCycle_same os s).eq]
@[simp] theorem closeCycle_glitched : (closeCycle os s).glitched = s.glitched := by rw [(closeCycle_same os s).eq]
@[simp] theorem closeCycle_executing : (closeCycle os s).executing = s.executing := by rw [(closeCycle_same os s).eq]
@[simp] theorem closeCycle_rsp : (closeCycle os s).rsp = s.rsp := by rw [(closeCycle_same os s).eq]
@[simp] theorem closeCycle_mtEv : (closeCycle os s).mtEv = s.mtEv := by rw [(closeCycle_same os s).eq]
@[simp] theorem closeCycle_disturbed : (closeCycle os s).disturbed = s.disturbed := by rw [(closeCycle_same os s).eq]
@[simp] theorem closeCycle_draws : (closeCycle os s).draws = s.draws := by rw [(closeCycle_same os s).eq]

end

/-! ## The level of the bound bit at the end of a cycle -/

theorem outBit_applyOther (s : State) (e : GpioEvent) (h : Handle) (m : PortValue) (ht : touches h m e = false)
    (hc : ∀ own, s.gpioEv = some own → gpioClash own e = true → touches h m own = false) :
    outBit (applyOther s e).out h m = outBit s.out h m := by
  unfold applyOther
  split
  · exact outBit_applyGpio s e h m ht
  · next own ho =>
    split
    · next hcl =>
      have hown := hc own ho hcl
      rw [← outBit_applyGpio s e h m ht]
      cases own with
      | mode p n => rfl
      | set k n =>
        simp only [outBit, forgetGpio, portGet_portSet]
        by_cases hk : h = k
        · subst hk
          have : n &&& m = 0 := by simpa [touches] using hown
          simp [andNot_and_disjoint this]
        · simp [hk]
      | clr k n =>
        simp only [outBit, forgetGpio, portGet_portSet]
        by_cases hk : h = k
        · subst hk
          have : n &&& m = 0 := by simpa [touches] using hown
          simp [andNot_and_disjoint this]
        · simp [hk]
    · exact outBit_applyGpio s e h m ht

end Sys2Proof.Machine
end

