-- ==== Sys2Proof/Laws/Step.lean ====
section
/-! SUPPORT. Everything a step can do, said once (R12, R13, R134, R266): the inversion of `step` and of the sequencer step, and
the forward equation of each kind of cycle. -/

namespace Sys2Proof.Machine

open Sys2Proof

/-! ## The inversion of a step -/

/-- The next state of a cycle with `rst = 1` (R290). -/
def resetState (st : Straps) (o : ChannelOrder) (s : State) : State :=
  { State.initial s.cfg st o with host := s.host, env := s.env.tail, draws := s.draws }

/-- The ways a step can answer a next state. -/
inductive StepCase (s : State) : State → Prop where
  | reset (st : Straps) (o : ChannelOrder) : s.cfg.wf = true → inputs s = .reset st → orderOfCode st.order = some o →
      StepCase s (resetState st o s)
  | disturbed (n : Nat) : Runs s → s.seq ≠ .idle → s.disturbed = some n →
      StepCase s (closeCycle (othersNow s) (disturbedStep n (tick s)))
  | preempted : Runs s → s.seq ≠ .idle → s.disturbed = none → preemptNow s = true →
      StepCase s (closeCycle (othersNow s) (disturb (tick s)))
  | sequencer (u : State) : Runs s → s.seq ≠ .idle → s.disturbed = none → preemptNow s = false →
      sequencerStep (tick s) = .ok u → StepCase s (closeCycle (othersNow s) u)
  | busy (e : Executing) : Runs s → s.seq = .idle → s.executing = some e →
      StepCase s (release e (closeCycle (othersNow s) (tick s)))
  | idle (rest : List Offer) : Runs s → s.seq = .idle → s.executing = none → hostActivity s = .idle rest →
      StepCase s (closeCycle (othersNow s) (taken rest s))
  | reserved (w : CmdWord) (rest : List Offer) (op : BitVec 4) : Accepts s w rest → decode w = .reserved op →
      StepCase s (closeCycle (othersNow s) (occupy none (taken rest s)))
  | command (w : CmdWord) (rest : List Offer) (i : Instr) (u : State) : Accepts s w rest → decode w = .command i →
      exec i (taken rest s) = .next u → StepCase s (closeCycle (othersNow s) (occupy (some i) u))

theorem Accepts.runs {s : State} {w : CmdWord} {rest : List Offer} (h : Accepts s w rest) : Runs s := by
  refine ⟨h.cfg_wf, ?_, h.duty⟩
  have := h.ready
  simp only [cmdReady, Bool.and_eq_true, Bool.not_eq_true'] at this
  exact this.1.1

theorem Accepts.seq_idle {s : State} {w : CmdWord} {rest : List Offer} (h : Accepts s w rest) : s.seq = .idle := by
  have := h.ready
  simp only [cmdReady, Bool.and_eq_true, beq_iff_eq] at this
  exact this.1.2

theorem Accepts.not_executing {s : State} {w : CmdWord} {rest : List Offer} (h : Accepts s w rest) :
    s.executing = none := by
  have := h.ready
  simp only [cmdReady, Bool.and_eq_true, beq_iff_eq] at this
  exact this.2

/-- What a cycle without reset is, by the parts of the state that decide it. -/
theorem activity_of_runs {s : State} (h : Runs s) :
    activity s = if s.seq ≠ .idle then .frame (preemptNow s)
      else match s.executing with
        | some e => .busy e
        | none => hostActivity s := by
  obtain ⟨hw, hr, hd⟩ := h
  unfold activity
  simp only [hw, rstNow, preemptNow, othersNow] at *
  split at hr
  · cases hr
  · next hi =>
    simp only [hi] at hd ⊢
    simp [hd] <;> rfl

theorem activity_accept {s : State} {w : CmdWord} {rest : List Offer} (h : Accepts s w rest) :
    activity s = .accept w rest := by
  rw [activity_of_runs h.runs]
  simp [h.seq_idle, h.not_executing, hostActivity, h.offered]

theorem hostActivity_accept {s : State} {w : CmdWord} {rest : List Offer} (h : hostActivity s = .accept w rest) :
    s.host = { wait := 0, word := w } :: rest := by
  unfold hostActivity at h
  split at h
  · cases h
  · next o r ho =>
    split at h
    · next hz => cases h; rw [ho]; cases o; simp_all
    · cases h

/-- Everything a step can do: if it answers a next state, one of these cases holds. -/
theorem step_cases {s t : State} (h : step s = .next t) : StepCase s t := by
  unfold step cycle at h
  cases ha : activity s with
  | illFormed => simp [ha] at h
  | dutyBroken => simp [ha] at h
  | reset st =>
    simp only [ha, resetCycle] at h
    unfold activity at ha
    split at ha
    · cases ha
    next hw =>
    split at ha
    · next st' hi =>
      cases ha
      split at h
      · cases h
      · next o ho => cases h; exact .reset st o (by simpa using hw) hi ho
    · split at ha
      · cases ha
      · split at ha
        · cases ha
        · split at ha
          · cases ha
          · unfold hostActivity at ha; split at ha
            · cases ha
            · split at ha <;> cases ha
  | frame p =>
    have hr : Runs s ∧ s.seq ≠ .idle ∧ preemptNow s = p := by
      unfold activity at ha
      split at ha
      · cases ha
      next hw =>
      split at ha
      · cases ha
      next pr os hi =>
      split at ha
      · cases ha
      next hd =>
      split at ha
      · next hs => cases ha; exact ⟨⟨by simpa using hw, by simp [rstNow, hi], by simpa [othersNow, hi] using hd⟩, hs,
          by simp [preemptNow, hi]⟩
      · split at ha
        · cases ha
        · unfold hostActivity at ha; split at ha
          · cases ha
          · split at ha <;> cases ha
    obtain ⟨hr, hs, hp⟩ := hr
    simp only [ha, frameCycle] at h
    split at h
    · next n hn => cases h; exact .disturbed n hr hs hn
    · next hn =>
      split at h
      · next hpt => cases h; exact .preempted hr hs hn (hp.trans hpt)
      · next hpf =>
        split at h
        · next u hu => cases h; exact .sequencer u hr hs hn (by rw [hp]; simpa using hpf) hu
        · cases h
  | busy e =>
    have hr : Runs s ∧ s.seq = .idle ∧ s.executing = some e := by
      unfold activity at ha
      split at ha
      · cases ha
      next hw =>
      split at ha
      · cases ha
      next pr os hi =>
      split at ha
      · cases ha
      next hd =>
      split at ha
      · cases ha
      next hs =>
      split at ha
      · next e' he => cases ha; exact ⟨⟨by simpa using hw, by simp [rstNow, hi], by simpa [othersNow, hi] using hd⟩,
          by simpa using hs, he⟩
      · unfold hostActivity at ha; split at ha
        · cases ha
        · split at ha <;> cases ha
    simp only [ha, busyCycle] at h
    cases h
    exact .busy e hr.1 hr.2.1 hr.2.2
  | idle rest =>
    have hr : Runs s ∧ s.seq = .idle ∧ s.executing = none ∧ hostActivity s = .idle rest := by
      unfold activity at ha
      split at ha
      · cases ha
      next hw =>
      split at ha
      · cases ha
      next pr os hi =>
      split at ha
      · cases ha
      next hd =>
      split at ha
      · cases ha
      next hs =>
      split at ha
      · cases ha
      · next he => exact ⟨⟨by simpa using hw, by simp [rstNow, hi], by simpa [othersNow, hi] using hd⟩,
          by simpa using hs, he, ha⟩
    simp only [ha, idleCycle] at h
    cases h
    exact .idle rest hr.1 hr.2.1 hr.2.2.1 hr.2.2.2
  | accept w rest =>
    have hr : Accepts s w rest := by
      unfold activity at ha
      split at ha
      · cases ha
      next hw =>
      split at ha
      · cases ha
      next pr os hi =>
      split at ha
      · cases ha
      next hd =>
      split at ha
      · cases ha
      next hs =>
      split at ha
      · cases ha
      · next he =>
        have hs : s.seq = .idle := by simpa using hs
        exact ⟨by simpa using hw, by simp [cmdReady, rstNow, hi, hs, he], hostActivity_accept ha,
          by simpa [othersNow, hi] using hd⟩
    simp only [ha, acceptCycle] at h
    split at h
    · next i hi =>
      cases hx : exec i (taken rest s) with
      | next u => simp only [hx, closeAccept] at h; cases h; exact .command w rest i u hr hi hx
      | fault f => simp [hx, closeAccept] at h
      | refused r => simp [hx, closeAccept] at h
    · next op ho => simp only [closeAccept] at h; cases h; exact .reserved w rest op hr ho

/-! ## The kinds of cycles, forward -/

theorem step_reset {s : State} {st : Straps} {o : ChannelOrder} (hw : s.cfg.wf = true) (hi : inputs s = .reset st)
    (ho : orderOfCode st.order = some o) : step s = .next (resetState st o s) := by
  simp [step, cycle, activity, hw, hi, resetCycle, ho, resetState]

theorem step_frame {s : State} (h : Runs s) (hs : s.seq ≠ .idle) : step s = frameCycle (preemptNow s) s := by
  simp [step, cycle, activity_of_runs h, hs]

theorem step_busy {s : State} {e : Executing} (h : Runs s) (hs : s.seq = .idle) (he : s.executing = some e) :
    step s = .next (release e (closeCycle (othersNow s) (tick s))) := by
  simp [step, cycle, activity_of_runs h, hs, he, busyCycle]

theorem step_accept {s : State} {w : CmdWord} {rest : List Offer} (h : Accepts s w rest) :
    step s = acceptCycle exec w rest s := by
  simp [step, cycle, activity_accept h]

/-! ## The sequencer step -/

/-- The state at the start of a bit's low phase (R134, arm HI). -/
def lowStarted (h : Handle) (m : PortValue) (s : State) : State := { s with
  line := false, seq := .lo, gpioPending := s.gpioPending ++ [.clr h m],
  cnt := lowTime s.cfg.profile ((bufGet s.buf s.bytePtr.toNat).getLsbD s.bitIdx.toNat) }

/-- The state at the start of the next bit's high phase (R134, arm LO). -/
def nextBitStarted (p i : Nat) (h : Handle) (m : PortValue) (s : State) : State := { s with
  bytePtr := BitVec.ofNat 18 p, bitIdx := BitVec.ofNat 3 i, line := true, seq := .hi,
  gpioPending := s.gpioPending ++ [.set h m], cnt := highTime s.cfg.profile ((bufGet s.buf p).getLsbD i) }

/-- The state at the start of the gap (R134, arm LO, last bit). -/
def gapStarted (p i : Nat) (s : State) : State := { s with
  bytePtr := BitVec.ofNat 18 p, bitIdx := BitVec.ofNat 3 i, seq := .gap, cnt := s.cfg.profile.tres }

/-- The ways the sequencer step can answer (R134). -/
inductive SequencerCase (s : State) : State → Prop where
  | count : s.seq ≠ .idle → 1 < s.cnt.toNat → SequencerCase s { s with cnt := s.cnt - 1 }
  | low (h : Handle) (m : PortValue) : s.seq = .hi → s.cnt.toNat ≤ 1 → s.bytePtr.toNat < nBytes s →
      s.pinHandle = some h → s.pinMask = some m → SequencerCase s (lowStarted h m s)
  | next (p i : Nat) (h : Handle) (m : PortValue) : s.seq = .lo → s.cnt.toNat ≤ 1 →
      nextBit s.bytePtr.toNat s.bitIdx.toNat = (p, i) → p < nBytes s → s.pinHandle = some h → s.pinMask = some m →
      SequencerCase s (nextBitStarted p i h m s)
  | gap (p i : Nat) : s.seq = .lo → s.cnt.toNat ≤ 1 → nextBit s.bytePtr.toNat s.bitIdx.toNat = (p, i) →
      p = nBytes s → SequencerCase s (gapStarted p i s)
  | finish : s.seq = .gap → s.cnt.toNat ≤ 1 → SequencerCase s (endFrame s)

theorem one_lt_iff (c : BitVec 32) : 1 < c ↔ 1 < c.toNat := by
  rw [BitVec.lt_def]; rfl

theorem sequencerStep_count {s : State} (hs : s.seq ≠ .idle) (hc : 1 < s.cnt.toNat) :
    sequencerStep s = .ok { s with cnt := s.cnt - 1 } := by
  rw [sequencerStep, if_neg hs, if_pos ((one_lt_iff _).2 hc)]

/-- The sequencer step in the last cycle of a phase. -/
theorem sequencerStep_last {s : State} (hs : s.seq ≠ .idle) (hc : s.cnt.toNat ≤ 1) :
    sequencerStep s = match s.seq with
      | .idle => .ok s
      | .hi => startLow s
      | .lo => advanceBit s
      | .gap => .ok (endFrame s) := by
  rw [sequencerStep, if_neg hs, if_neg (by rw [one_lt_iff]; omega)] <;> rfl

theorem sequencerStep_low {s : State} {h : Handle} {m : PortValue} (hs : s.seq = .hi) (hc : s.cnt.toNat ≤ 1)
    (hp : s.bytePtr.toNat < nBytes s) (hh : s.pinHandle = some h) (hm : s.pinMask = some m) :
    sequencerStep s = .ok (lowStarted h m s) := by
  rw [sequencerStep_last (by simp [hs]) hc]
  simp [hs, startLow, memBit_of_lt _ hp, boundPin, hh, hm, bind, Except.bind, emit, lowStarted]

theorem sequencerStep_next {s : State} {p i : Nat} {h : Handle} {m : PortValue} (hs : s.seq = .lo)
    (hc : s.cnt.toNat ≤ 1) (hn : nextBit s.bytePtr.toNat s.bitIdx.toNat = (p, i)) (hp : p < nBytes s)
    (hh : s.pinHandle = some h) (hm : s.pinMask = some m) : sequencerStep s = .ok (nextBitStarted p i h m s) := by
  rw [sequencerStep_last (by simp [hs]) hc]
  have hp' : p < 3 * s.nLeds.toNat := hp
  have hpn : ¬ p = 3 * s.nLeds.toNat := by omega
  simp [hs, advanceBit, hn, hpn, startBit, memBit, memRead, nBytes, hp', boundPin, hh, hm, bind, Except.bind, emit,
    nextBitStarted]

theorem sequencerStep_gap {s : State} {p i : Nat} (hs : s.seq = .lo) (hc : s.cnt.toNat ≤ 1)
    (hn : nextBit s.bytePtr.toNat s.bitIdx.toNat = (p, i)) (hp : p = nBytes s) :
    sequencerStep s = .ok (gapStarted p i s) := by
  rw [sequencerStep_last (by simp [hs]) hc]
  simp [hs, advanceBit, hn, hp, startGap, gapStarted]

theorem sequencerStep_finish {s : State} (hs : s.seq = .gap) (hc : s.cnt.toNat ≤ 1) :
    sequencerStep s = .ok (endFrame s) := by
  rw [sequencerStep_last (by simp [hs]) hc]
  simp [hs]

theorem boundPin_ok {s : State} {hm : Handle × PortValue} (h : boundPin s = .ok hm) :
    s.pinHandle = some hm.1 ∧ s.pinMask = some hm.2 := by
  unfold boundPin at h
  split at h
  · cases h; simp_all
  · cases h

theorem memBit_ok {s : State} {p i : Nat} {b : Bool} (h : memBit s p i = .ok b) : p < nBytes s := by
  unfold memBit memRead at h
  by_contra hp
  simp [hp] at h

/-- Everything the sequencer step can do. -/
theorem sequencerStep_cases {s u : State} (hs : s.seq ≠ .idle) (h : sequencerStep s = .ok u) : SequencerCase s u := by
  by_cases hc : 1 < s.cnt.toNat
  · rw [sequencerStep_count hs hc] at h; cases h; exact .count hs hc
  have hc' : s.cnt.toNat ≤ 1 := by omega
  have h0 := h
  rw [sequencerStep_last hs hc'] at h
  split at h
  · next hq => exact absurd hq hs
  · next hq =>
    simp only [startLow, bind, Except.bind] at h
    split at h
    · cases h
    next b hb =>
    split at h
    · cases h
    next hm hbm =>
    have hp := memBit_ok hb
    obtain ⟨h1, h2⟩ := boundPin_ok hbm
    rw [sequencerStep_low hq hc' hp h1 h2] at h0
    cases h0
    exact .low _ _ hq hc' hp h1 h2
  · next hq =>
    rcases hn : nextBit s.bytePtr.toNat s.bitIdx.toNat with ⟨p, i⟩
    simp only [advanceBit, hn] at h
    split at h
    · next hp =>
      rw [sequencerStep_gap hq hc' hn hp] at h0
      cases h0
      exact .gap p i hq hc' hn hp
    · simp only [startBit, bind, Except.bind] at h
      split at h
      · cases h
      next b hb =>
      split at h
      · cases h
      next hm hbm =>
      have hp : p < nBytes s := memBit_ok hb
      obtain ⟨h1, h2⟩ := boundPin_ok hbm
      simp only at h1 h2
      rw [sequencerStep_next hq hc' hn hp h1 h2] at h0
      cases h0
      exact .next p i _ _ hq hc' hn hp h1 h2
  · next hq => cases h; exact .finish hq hc'

/-! ## What a command leaves in the fields its rule does not write -/

/-- Everything an executed command can leave: the result of a command other than SHOW, SHOW ignored, or a frame started. -/
inductive ExecCase (i : Instr) (s : State) : State → Prop where
  | result : i ≠ .showFrame → ExecCase i s (resultOf i s)
  | ignored : i = .showFrame → s.fsm ≠ .ready ∨ s.bufValid = false → ExecCase i s s
  | empty : i = .showFrame → s.fsm = .ready → s.bufValid = true → s.nLeds = 0 → ExecCase i s (emptyFrameStart s)
  | frame (h : Handle) (m : PortValue) : i = .showFrame → s.fsm = .ready → s.bufValid = true → s.nLeds ≠ 0 →
      s.pinHandle = some h → s.pinMask = some m → ExecCase i s (frameStart h m s)

/-- Everything an executed command can do. -/
theorem exec_cases {i : Instr} {s u : State} (h : exec i s = .next u) : ExecCase i s u := by
  by_cases hi : i = .showFrame
  · subst hi
    rcases execShow_cases s with ⟨hc, hx⟩ | ⟨h1, h2, h3, hx⟩ | ⟨h1, h2, h3, ⟨p, m, h4, h5, hx⟩ | ⟨-, hx⟩⟩
    · rw [hx] at h; cases h; exact .ignored rfl hc
    · rw [hx] at h; cases h; exact .empty rfl h1 h2 h3
    · rw [hx] at h; cases h; exact .frame p m rfl h1 h2 h3 h4 h5
    · rw [hx] at h; cases h
  · rw [exec_eq_resultOf i s hi] at h; cases h; exact .result hi

/-! ## What each part of a cycle keeps -/

/-- What no command writes, and what only one kind of command writes (R23). -/
theorem exec_keeps {i : Instr} {s u : State} (h : exec i s = .next u) :
    u.cfg = s.cfg ∧ u.nLeds = s.nLeds ∧ u.order = s.order ∧ u.bufValid = s.bufValid ∧ u.host = s.host ∧ u.env = s.env ∧
    u.glitched = s.glitched ∧ u.executing = s.executing ∧
    ((∀ a b c d, i ≠ .setPix3 a b c d) → (∀ a b, i ≠ .setPixP a b) → (∀ l, i ≠ .setBrt l) → u.buf = s.buf) ∧
    ((∀ l, i ≠ .setBrt l) → u.bright = s.bright) ∧ ((∀ p, i ≠ .setPin p) → u.pinId = s.pinId) := by
  cases exec_cases h with
  | ignored => simp
  | empty => simp [emptyFrameStart]
  | frame => simp [frameStart]
  | result hi =>
    cases i with
    | showFrame => exact absurd rfl hi
    | beginBind => simp only [resultOf]; split <;> simp
    | endBind => simp [resultOf]
    | setPin p => simp only [resultOf]; split <;> [simp; (split <;> simp)]
    | setPix3 => simp only [resultOf]; split <;> simp
    | setPixP => simp only [resultOf]; split <;> simp
    | getPix => simp [resultOf]
    | numPix => simp [resultOf]
    | setBrt => simp only [resultOf]; split <;> simp
    | color => simp [resultOf]

/-- What the sequencer step keeps (R134, R139). -/
theorem sequencerStep_keeps {s u : State} (hs : s.seq ≠ .idle) (hu : sequencerStep s = .ok u) :
    u.cfg = s.cfg ∧ u.nLeds = s.nLeds ∧ u.order = s.order ∧ u.bufValid = s.bufValid ∧ u.host = s.host ∧ u.env = s.env ∧
    u.glitched = s.glitched ∧ u.buf = s.buf ∧ u.bright = s.bright ∧ u.pinId = s.pinId ∧ u.pinHandle = s.pinHandle ∧
    u.pinMask = s.pinMask ∧ u.oe = s.oe ∧ u.executing = s.executing ∧ u.rsp = s.rsp ∧ u.disturbed = s.disturbed := by
  cases sequencerStep_cases hs hu <;> simp [lowStarted, nextBitStarted, gapStarted, endFrame, leaveCritical]

/-- What a disturbed cycle keeps (R266). -/
theorem disturbedStep_keeps (n : Nat) (s : State) :
    let u := disturbedStep n s
    u.cfg = s.cfg ∧ u.nLeds = s.nLeds ∧ u.order = s.order ∧ u.bufValid = s.bufValid ∧ u.host = s.host ∧ u.env = s.env ∧
    u.glitched = s.glitched ∧ u.buf = s.buf ∧ u.bright = s.bright ∧ u.pinId = s.pinId ∧ u.pinHandle = s.pinHandle ∧
    u.pinMask = s.pinMask ∧ u.oe = s.oe ∧ u.executing = s.executing ∧ u.rsp = s.rsp := by
  cases n <;> simp [disturbedStep]

/-- Where a disturbed cycle stands keeps R33, R45 (d) and R45 (i), whatever the free value is. -/
theorem disturbedPosition_limits (d : Disturbance) (s : State) :
    let u := disturbedPosition d s
    u.seq ≠ .idle ∧ (u.line = true → u.seq = .hi) ∧ 1 ≤ u.cnt.toNat ∧
    (u.seq = .hi ∨ u.seq = .lo → u.bytePtr.toNat < nBytes s) ∧ (u.seq = .gap → u.bytePtr.toNat = nBytes s) := by
  have hn : nBytes s < 2 ^ 18 := by unfold nBytes; have := s.nLeds.isLt; omega
  have hb (x : BitVec 32) : 1 ≤ (if x = 0#32 then 1#32 else x).toNat := by
    split
    · decide
    · next h => have : x.toNat ≠ 0 := fun h0 => h (BitVec.eq_of_toNat_eq (by simpa using h0)); omega
  by_cases h0 : nBytes s = 0
  · simp [disturbedPosition, h0, seqOfPhase, hb d.cnt]
  · have hm := Nat.mod_lt d.bytePtr.toNat (Nat.pos_of_ne_zero h0)
    have hm' : d.bytePtr.toNat % nBytes s % 262144 = d.bytePtr.toNat % nBytes s := Nat.mod_eq_of_lt (Nat.lt_trans hm hn)
    have hn' : nBytes s % 262144 = nBytes s := Nat.mod_eq_of_lt hn
    cases hp : d.phase <;> simp [disturbedPosition, h0, hp, seqOfPhase, hb d.cnt, hm', hn', hm]

/-- The release of the port touches `executing` alone. -/
theorem release_eq (e : Executing) (s : State) : release e s = { s with executing := (release e s).executing } := rfl

/-- Occupying the port touches `executing` and the response alone. -/
theorem occupy_eq (c : Option Instr) (s : State) :
    occupy c s = { s with executing := (occupy c s).executing, rsp := (occupy c s).rsp } := by
  unfold occupy
  split <;> rfl

/-! ## The port: latencies and responses -/

/-- R7, R95: what a well-formed configuration says of the timing of every command. -/
theorem timingOf_wf {c : Config} (h : c.wf = true) (cmd : Option Instr) :
    1 ≤ (timingOf c cmd).busy ∧ 1 ≤ (timingOf c cmd).rsp ∧ (timingOf c cmd).rsp ≤ (timingOf c cmd).busy + 1 := by
  simp only [Config.wf, Bool.and_eq_true] at h
  obtain ⟨⟨-, hd⟩, ht⟩ := h
  have : (timingOf c cmd).wf = true := by
    cases cmd with
    | none => exact hd
    | some i =>
      unfold timingOf
      cases hl : c.timing.lookup i with
      | none => simpa [hl] using hd
      | some t =>
        have hm : (i, t) ∈ c.timing := by
          revert hl
          induction c.timing with
          | nil => simp
          | cons x xs ih =>
            obtain ⟨a, b⟩ := x
            simp only [List.lookup_cons]
            split
            · next hq => intro h; simp at hq h; simp [hq, h]
            · intro h; exact List.mem_cons_of_mem _ (ih h)
        simpa [hl] using List.all_eq_true.1 ht _ hm
  simpa [CmdTiming.wf, and_assoc] using this

/-- R91, R261: the port is busy for `LAT_CMD` cycles and long enough for the command's events. -/
theorem latency_bounds (cmd : Option Instr) (s : State) :
    (timingOf s.cfg cmd).busy ≤ latency cmd s ∧ s.gpioPending.length ≤ latency cmd s + 1 := by
  unfold latency
  omega

/-- R95: with the port free, no response is left after this cycle. -/
theorem advanceRsp_free {s : State} (hc : ControlInv s) (he : s.executing = none) : advanceRsp s.rsp = none := by
  cases h : s.rsp with
  | none => rfl
  | some r =>
    have := hc.rsp_wait r h
    obtain ⟨v, w⟩ := r
    simp [he] at this
    subst this
    rfl

/-- R95: a response on its way waits less than the command in execution still takes. -/
theorem advanceRsp_busy {s : State} {e : Executing} (hc : ControlInv s) (he : s.executing = some e) :
    ∀ r, advanceRsp s.rsp = some r → r.wait + 1 ≤ e.left := by
  intro r hr
  cases h : s.rsp with
  | none => rw [h] at hr; cases hr
  | some r0 =>
    have := hc.rsp_wait r0 h
    rw [h] at hr
    obtain ⟨v, w⟩ := r0
    cases w with
    | zero => cases hr
    | succ n => cases hr; simpa [he] using this

end Sys2Proof.Machine
end

