-- ==== Sys2Proof/Tests/Slice0.lean ====
section
/-! SUPPORT. The model's own tests: expected results from the spec (95_test_vectors.md by the vector's id, or the rule named),
one step each; then a witness for the hypotheses of every statement. -/

namespace Sys2Proof.Tests

open Sys2Proof Sys2Proof.Machine

/-! ## Ill-formed terms are refused (R8, R7, R95) -/

/-- The profile EXU with one field to spoil. -/
def exu : Profile := Config.example95.profile

theorem test_profile_exu_wf : exu.wf = true := by decide
theorem test_profile_t1h_not_above_t0h : ({ exu with t1h := 1 } : Profile).wf = false := by decide
theorem test_profile_t0h_zero : ({ exu with t0h := 0 } : Profile).wf = false := by decide
theorem test_profile_t0l_zero : ({ exu with t0l := 0 } : Profile).wf = false := by decide
theorem test_profile_t1h_zero : ({ exu with t0h := 0, t1h := 0 } : Profile).wf = false := by decide
theorem test_profile_t1l_zero : ({ exu with t1l := 0 } : Profile).wf = false := by decide
theorem test_profile_tres_zero : ({ exu with tres := 0 } : Profile).wf = false := by decide
theorem test_pin_mask_two_bits : PinRow.wf 8 ⟨0, 0, 3⟩ = false := by decide
theorem test_pin_mask_zero : PinRow.wf 8 ⟨0, 0, 0⟩ = false := by decide
theorem test_pin_mask_above_port : PinRow.wf 8 ⟨0, 0, 0x100⟩ = false := by decide
theorem test_pin_mask_top_bit : PinRow.wf 8 ⟨7, 0, 0x80⟩ = true := by decide
theorem test_timing_busy_zero : CmdTiming.wf ⟨0, 1⟩ = false := by decide
theorem test_timing_response_at_once : CmdTiming.wf ⟨3, 0⟩ = false := by decide
theorem test_timing_response_late : CmdTiming.wf ⟨3, 5⟩ = false := by decide
theorem test_timing_response_with_ready : CmdTiming.wf ⟨3, 4⟩ = true := by decide
theorem test_config_example_wf : Config.example95.wf = true := by decide
theorem test_config_other_clock : ({ Config.example95 with fClk := 16000000 } : Config).wf = false := by decide
theorem test_config_clock_zero :
    ({ Config.example95 with fClk := 0, profile := { exu with tagHz := 0 } } : Config).wf = false := by decide
theorem test_config_profile : ({ Config.example95 with profile := { exu with tres := 0 } } : Config).wf = false := by decide
theorem test_config_port_width_zero : ({ Config.example95 with portW := 0, pins := [] } : Config).wf = false := by decide
theorem test_config_pin_row : ({ Config.example95 with pins := [⟨2, 0, 6⟩] } : Config).wf = false := by decide
theorem test_config_timing_default : ({ Config.example95 with timingDefault := ⟨0, 1⟩ } : Config).wf = false := by decide
theorem test_config_timing_row : ({ Config.example95 with timing := [(.numPix, ⟨2, 9⟩)] } : Config).wf = false := by decide
/-- V-EXC-5. -/
theorem test_straps_reserved_order : ({ Straps.example95 with order := 3 } : Straps).wf = false := by decide
theorem test_straps_brg_wf : ({ Straps.example95 with order := 2 } : Straps).wf = true := by decide
/-- R98: every command is well-formed, so no term of `Instr` is refused. -/
theorem test_command_wf : (Instr.setPix3 0xFFFF 1 2 3).wf = true := by decide

/-! ## Words written out from the spec (V-ENC-1 to V-ENC-18): `OP`, `IDX`, `DATA` -/

theorem test_decode_begin : decode 0b0001_0000000000000000_000000000000000000000000 = .command .beginBind := by decide
theorem test_decode_end : decode 0b0010_0000000000000000_000000000000000000000000 = .command .endBind := by decide
theorem test_decode_setpin : decode 0b0011_0000000000000000_000000000000000000000101 = .command (.setPin 5) := by decide
theorem test_decode_setpix3 :
    decode 0b0100_1111111111111111_000000010000001000000011 = .command (.setPix3 65535 1 2 3) := by decide
theorem test_decode_setpixp :
    decode 0b0101_0000000000000000_000000001111111100000000 = .command (.setPixP 0 0x00FF00) := by decide
theorem test_decode_getpix : decode 0b0110_0000000000000001_000000000000000000000000 = .command (.getPix 1) := by decide
theorem test_decode_numpix : decode 0b0111_0000000000000000_000000000000000000000000 = .command .numPix := by decide
theorem test_decode_setbrt : decode 0b1000_0000000000000000_000000000000000001111111 = .command (.setBrt 127) := by decide
theorem test_decode_show : decode 0b1001_0000000000000000_000000000000000000000000 = .command .showFrame := by decide
theorem test_decode_color :
    decode 0b1010_0000000000000000_000000001111111100000000 = .command (.color 0 255 0) := by decide
theorem test_decode_reserved_low : decode 0x00000000000 = .reserved 0 := by decide
theorem test_decode_reserved_high : decode 0xF0000000000 = .reserved 15 := by decide
/-- 95_test_vectors.md, 2.1: SHOW with `IDX = 1`. -/
theorem test_decode_noncanonical_show : decode 0x90001000000 = .command .showFrame ∧ canonical 0x90001000000 = false := by
  decide
/-- V-ENC-6, V-ENC-12. -/
theorem test_encode : encode (.setPix3 1 0x12 0x34 0x56) = 0x40001123456 ∧ encode (.setBrt 127) = 0x8000000007F := by decide
/-- V-ENC-7, R105. -/
theorem test_assembly : assembly (.setPix3 65535 1 2 3) = "SETPIX3 65535, 1, 2, 3" := by decide
theorem test_table_word : decodeTableWord 44 0x60001000000 = some (.getPix 1) ∧ decodeTableWord 44 0xB0000000000 = none := by
  decide
/-- A word given in whole bytes: a bit above the 44 of a word is no part of any command. -/
theorem test_table_word_bytes : decodeTableWord 48 0x90000000000 = some .showFrame ∧
    decodeTableWord 48 0x190000000000 = none := by decide

/-! ## One command each (95_test_vectors.md, 2.2 to 2.5) -/

/-- The next state, if there is one. -/
def nextState (a : Answer) : Option State :=
  match a with
  | .next s => some s
  | _ => none

/-- A field of the next state. -/
def seen {α : Type} (a : Answer) (f : State → α) : Option α := (nextState a).map f

/-- A strip of `n` LEDs in `Unbound`, pin 2, with the bytes `buf`, at the stored brightness `bright`. -/
def strip (n : BitVec 16) (o : ChannelOrder) (bright : BitVec 9) (buf : Memory) : State :=
  { State.initial Config.example95 { n := n, pin := 2, allocOk := true } o with bright := bright, buf := buf }

/-- A machine with pin 2 bound. -/
def bindState (s : State) : State :=
  { s with fsm := .ready, oe := true, pinHandle := some 0, pinMask := some 4, out := [(0, ⟨4, 0⟩)] }

/-- A machine whose allocation failed (V-PIX-8). -/
def inert : State := State.initial Config.example95 { n := 60, pin := 2, allocOk := false } .grb

theorem test_setpix3_grb_V_PIX_1 : seen (exec (.setPix3 0 255 0 0) (strip 1 .grb 0 [])) (·.buf) = some [(1, 0xFF)] := by decide
theorem test_setpix3_brg_V_PIX_3c :
    seen (exec (.setPix3 1 0x11 0x22 0x33) (strip 2 .brg 0 [])) (·.buf) = some [(3, 0x33), (4, 0x11), (5, 0x22)] := by decide
theorem test_setpixp_V_PIX_4 :
    seen (exec (.setPixP 1 0xA5C300) (strip 2 .brg 0 [])) (·.buf) = some [(4, 0xA5), (5, 0xC3)] := by decide
theorem test_setpixp_scaled_V_BRT_2 :
    seen (exec (.setPixP 1 0xC86432) (strip 2 .rgb 128 [])) (·.buf) = some [(3, 100), (4, 50), (5, 25)] := by decide
theorem test_getpix_V_PIX_3b :
    seen (exec (.getPix 1) (strip 2 .grb 0 [(3, 0x22), (4, 0x11), (5, 0x33)])) (·.rsp) = some (some ⟨0x112233, 0⟩) := by decide
theorem test_getpix_V_PIX_6 : seen (exec (.getPix 2) (strip 2 .grb 0 [(5, 1)])) (·.rsp) = some (some ⟨0, 0⟩) := by decide
theorem test_numpix_V_PIX_9 : seen (exec .numPix (strip 60 .grb 0 [])) (·.rsp) = some (some ⟨0x00003C, 0⟩) := by decide
theorem test_numpix_V_PIX_8 : seen (exec .numPix inert) (·.rsp) = some (some ⟨0, 0⟩) := by decide
theorem test_color_V_PIX_12 : seen (exec (.color 0x12 0x34 0x56) inert) (·.rsp) = some (some ⟨0x123456, 0⟩) := by decide
theorem test_setbrt_V_BRT_3 :
    seen (exec (.setBrt 63) (strip 2 .rgb 128 [(0, 127), (1, 64), (3, 100), (4, 50), (5, 25)])) (fun s => (s.bright, s.buf)) =
      some (64, [(0, 63), (1, 31), (3, 49), (4, 24), (5, 12)]) := by decide
/-- R209's unreachable state: `trunc_8` of 5933 is 45. -/
theorem test_setbrt_truncates :
    seen (exec (.setBrt 255) (strip 1 .rgb 11 [(0, 255)])) (·.buf) = some [(0, 45)] := by decide
theorem test_begin_V_FAC_1 : seen (exec .beginBind (strip 1 .grb 0 [])) (fun s => (s.fsm, s.oe, s.pinMask, s.gpioPending)) =
    some (.ready, true, some 4, [.mode 2 .output, .clr 0 4]) := by decide
theorem test_begin_V_FAC_8 : seen (exec .beginBind { strip 1 .grb 0 [] with pinId := 9 }) (·.fsm) = some .unbound := by decide
theorem test_end_V_FAC_3 : seen (exec .endBind (bindState (strip 1 .grb 0 []))) (fun s => (s.fsm, s.oe, s.pinId, s.gpioPending)) =
    some (.unbound, false, 2, [.mode 2 .input]) := by decide
theorem test_end_V_FAC_9 : seen (exec .endBind { strip 1 .grb 0 [] with pinId := 9 }) (·.gpioPending) = some [] := by decide
theorem test_setpin_V_FAC_5 :
    seen (exec (.setPin 5) (bindState (strip 1 .grb 0 []))) (fun s => (s.pinId, s.pinMask, s.gpioPending)) =
      some (5, some 0x20, [.mode 2 .input, .mode 5 .output, .clr 0 0x20]) := by decide
theorem test_setpin_V_FAC_6 : seen (exec (.setPin 5) (strip 1 .grb 0 [])) (fun s => (s.fsm, s.pinId, s.gpioPending)) =
    some (.unbound, 5, []) := by decide
/-- V-SEQ-11, row `k + 1`. -/
theorem test_show_V_SEQ_11 :
    seen (exec .showFrame (bindState (strip 1 .grb 0 [(0, 0x80), (2, 1)])))
      (fun s => (s.seq, s.cnt, s.line, s.crit, s.gpioPending)) = some (.hi, 2, true, true, [.set 0 4]) := by decide
/-- V-SEQ-5. -/
theorem test_show_empty_V_SEQ_5 :
    seen (exec .showFrame (bindState (strip 0 .grb 0 []))) (fun s => (s.seq, s.cnt, s.line, s.gpioPending)) =
      some (.gap, 5, false, []) := by decide

/-- A frame of V-SEQ-11 in one of its cycles. -/
def frame (q : Seq) (p : BitVec 18) (i : BitVec 3) (c : BitVec 32) : State :=
  { bindState (strip 1 .grb 0 [(0, 0x80), (2, 1)]) with
    fsm := .transmitting, crit := true, mtSuspend := true, seq := q, bytePtr := p, bitIdx := i, cnt := c,
    line := q == .hi, out := [(0, ⟨4, if q == .hi then 4 else 0⟩)] }

theorem test_sequencer_row_3 : seen (step (frame .hi 0 7 1)) (fun s => (s.seq, s.cnt, s.line, s.gpioEv)) =
    some (.lo, 1, false, some (.clr 0 4)) := by decide
theorem test_sequencer_row_92 : seen (step (frame .lo 2 1 1)) (fun s => (s.seq, s.cnt, s.bitIdx, s.gpioEv)) =
    some (.hi, 2, 0, some (.set 0 4)) := by decide
theorem test_sequencer_row_95 : seen (step (frame .lo 2 0 1)) (fun s => (s.seq, s.cnt, s.bytePtr, s.bitIdx, s.gpioEv)) =
    some (.gap, 5, 3, 7, none) := by decide
theorem test_sequencer_row_100 :
    seen (step (frame .gap 3 7 1)) (fun s => (s.fsm, s.seq, s.crit, s.mtSuspend, cmdReady s)) =
      some (.ready, .idle, false, false, true) := by decide
/-- V-EXC-1: what the spec defines of a preempted cycle. -/
theorem test_preempted_V_EXC_1 :
    ∃ t, step { frame .lo 0 6 2 with env := [.run true []] } = .next t ∧ t.glitched = true := by
  refine ⟨_, rfl, ?_⟩
  rw [closeCycle_glitched, disturb]
  cases Config.disturbedCycles _ <;> rfl
/-- V-EXC-3. -/
theorem test_reset_V_EXC_3 :
    seen (step { frame .lo 0 6 2 with env := [.reset Straps.example95] })
      (fun s => (s.fsm, wire s, s.crit)) = some (.unbound, some .z, false) := by decide
/-- V-EXC-5. -/
theorem test_reset_V_EXC_5 : step { State.reset with env := [.reset { Straps.example95 with order := 3 }] } =
    .refused .illFormedStraps := rfl
/-- U11. -/
theorem test_gpio_duty :
    step { bindState (strip 1 .grb 0 []) with env := [.run false [.set 0 4]] } = .fault .gpioDutyBroken := rfl
/-- V-EXC-4: a reserved word is accepted and keeps the port busy, and nothing else. -/
theorem test_reserved_V_EXC_4 :
    seen (step { State.reset with host := [⟨0, 0xF0000000000⟩] }) (fun s => (s.executing, s.rsp, s.gpioEv, s.host)) =
      some (some ⟨none, 3⟩, none, none, []) := by decide
/-- R7, R91: `LAT_CMD` 1; a SETPIN with three events takes 2 (log entry 4), one without takes 1. -/
theorem test_latency_one :
    let c := { Config.example95 with timingDefault := ⟨1, 1⟩ }
    let s := { bindState (strip 1 .grb 0 []) with cfg := c }
    seen (step { s with host := [⟨0, 0x70000000000⟩] }) (·.executing) = some (some ⟨some .numPix, 1⟩) ∧
    seen (step { s with host := [⟨0, 0x30000000009⟩] }) (·.executing) = some (some ⟨some (.setPin 9), 1⟩) ∧
    seen (step { s with host := [⟨0, 0x30000000005⟩] }) (·.executing) = some (some ⟨some (.setPin 5), 2⟩) := by decide
/-- R94, R7: `LAT_CMD` is a function of the command, whatever the unused bits of its word. -/
theorem test_latency_ignores_unused_bits :
    let s := { State.reset with cfg := { Config.example95 with timing := [(.numPix, ⟨7, 2⟩)] } }
    seen (step { s with host := [⟨0, 0x70000000001⟩] }) (·.executing) = some (some ⟨some .numPix, 7⟩) := by decide
/-- The word placed for the next step runs as the first one after reset. -/
theorem test_fetch_word :
    seen (step (State.reset.withFetchWord 44 0x10000000000)) (fun s => (s.fsm, s.executing, s.gpioEv)) =
      some (.ready, some ⟨some .beginBind, 3⟩, some (.mode 2 .output)) := by decide

/-! ## Witnesses: for every statement with hypotheses, concrete values that meet them all; one for each clause -/

/-- `s` with one word offered at once. -/
def offering (w : CmdWord) (s : State) : State := { s with host := [{ wait := 0, word := w }] }

/-- The strip of one LED, bound, with two bytes written: the start of V-SEQ-10. -/
def ready : State := bindState (strip 1 .grb 0 [(0, 0x80), (2, 1)])

/-- An accepted SETPIN that keeps the port busy for `n` cycles more, with the events `es` still to be issued. -/
def busy (n : Nat) (es : List GpioEvent) : State :=
  { ready with executing := some ⟨some (.setPin 2), n⟩, gpioPending := es }

theorem accepts_offering {s : State} (w : CmdWord) (h1 : s.cfg.wf = true) (h2 : cmdReady s = true)
    (h3 : (othersNow s).all (keepsDuty s) = true) : Accepts (offering w s) w [] :=
  ⟨h1, h2, rfl, h3⟩

theorem accepts_reset (w : CmdWord) : Accepts (offering w State.reset) w [] :=
  accepts_offering w (by decide) (by decide) (by decide)

theorem accepts_ready (w : CmdWord) : Accepts (offering w ready) w [] :=
  accepts_offering w (by decide) (by decide) (by decide)

theorem runs_ready : Runs ready := ⟨by decide, by decide, by decide⟩

theorem control_reset (w : CmdWord) : ControlInv (offering w State.reset) := by
  constructor <;> simp [offering, State.reset, State.initial]

theorem control_ready (w : CmdWord) : ControlInv (offering w ready) := by
  constructor <;> simp [offering, ready, bindState, strip, State.initial]
  decide

/-- No clause of the invariant speaks of the inputs. -/
theorem control_env (es : List EnvCycle) {s : State} (h : ControlInv s) : ControlInv { s with env := es } := by
  obtain ⟨a1, a2, a3, a4, a5, a6, a7, a8, a9, a10, a11, a12, a13, a14, a15⟩ := h
  exact ⟨a1, a2, a3, a4, a5, a6, a7, a8, a9, a10, a11, a12, a13, a14, a15⟩

theorem control_busy (n : Nat) (es : List GpioEvent) (h : 1 ≤ n) (he : es.length ≤ n) : ControlInv (busy n es) := by
  constructor <;> simp [busy, ready, bindState, strip, State.initial]
  · decide
  · exact h
  · exact he

theorem control_frame : ControlInv (frame .hi 0 7 1) ∧ ControlInv (frame .lo 2 0 1) ∧ ControlInv (frame .gap 3 7 1) := by
  refine ⟨?_, ?_, ?_⟩ <;> constructor <;> simp [frame, bindState, strip, State.initial, nBytes] <;> decide

/-! ### 30_encoding.md -/

/-- The opcodes at the borders of the two cases, and a canonical word. -/
theorem test_witness_DecoderIsTotal :
    (opOf 0x00000000000).toNat = 0 ∧ (opOf 0x10000000000).toNat = 1 ∧ (opOf 0xA0000000000).toNat = 10 ∧
    (opOf 0xB0000000000).toNat = 11 ∧
    canonical 0x8000000007F = true ∧ decode 0x8000000007F = .command (.setBrt 127) := by decide

theorem test_witness_UnusedBitsIgnored :
    opOf 0x90000000000 = opOf 0x90001000000 ∧
    ((0x90000000000 : CmdWord) ^^^ 0x90001000000) &&& ~~~(unusedBits (opOf 0x90000000000)) = 0 ∧
    opOf 0x300000000FF = 3 ∧ opOf 0x80000000100 = 8 ∧ cmdReady State.reset = true := by decide

/-! ### Reset -/

theorem test_witness_ResetCycleGivesResetValues :
    let s := { frame .lo 0 6 2 with env := [.reset Straps.example95] }
    s.cfg.wf = true ∧ inputs s = .reset Straps.example95 ∧ orderOfCode Straps.example95.order = some .grb := by decide

theorem test_witness_ResetCycle_inert_brg :
    let st : Straps := { n := 4, pin := 7, order := 2, allocOk := false }
    let s := { State.reset with env := [.reset st] }
    s.cfg.wf = true ∧ inputs s = .reset st ∧ orderOfCode st.order = some .brg := by decide

/-- The second and the third clause; `test_config_…` above break the conditions of the first one by one. -/
theorem test_witness_IllFormedConfigurationRefused :
    Config.example95.wf = true ∧
    ({ State.reset with cfg := { Config.example95 with fClk := 2 } } : State).cfg.wf = false ∧
    State.reset.cfg.wf = true ∧
    inputs { State.reset with env := [.reset { Straps.example95 with order := 3 }] } =
      .reset { Straps.example95 with order := 3 } := by decide

/-! ### The command port and the cycle -/

theorem test_witness_StepRunsDecodedCommand :
    Accepts (offering 0x10000000000 State.reset) 0x10000000000 [] ∧ decode 0x10000000000 = .command .beginBind ∧
    Instr.beginBind.wf = true :=
  ⟨accepts_reset _, by decide, by decide⟩

theorem test_witness_ReservedWordDoesNothing :
    Accepts (offering 0xF0000000000 State.reset) 0xF0000000000 [] ∧ decode 0xF0000000000 = .reserved 15 ∧
    ControlInv (offering 0xF0000000000 State.reset) :=
  ⟨accepts_reset _, by decide, control_reset _⟩

/-- A word accepted, a word that waits for the port, a word the host does not offer yet. -/
theorem test_witness_HandshakeTakesOneWord :
    (ControlInv (offering 0x70000000000 ready) ∧ cmdReady (offering 0x70000000000 ready) = true ∧
      cmdValid (offering 0x70000000000 ready) = true ∧ ∃ t, step (offering 0x70000000000 ready) = .next t) ∧
    (ControlInv (busy 2 []) ∧ cmdReady (busy 2 []) = false ∧ ∃ t, step (busy 2 []) = .next t) ∧
    cmdValid { ready with host := [⟨1, 0x70000000000⟩] } = false :=
  ⟨⟨control_ready _, by decide, by decide, _, rfl⟩, ⟨control_busy 2 [] (by decide) (by decide), by decide, _, rfl⟩, by decide⟩

/-- A cycle with PREEMPT and another owner off the pin table is detached. -/
theorem detached_busy : ∀ c ∈ [EnvCycle.run true [.set 1 1, .mode 9 .input]], detached Config.example95 c = true := by decide

/-- The environment `detached_busy` about a SETBRT; the exception: a SETPIN in `Ready` with `LAT_CMD` 1. -/
theorem test_witness_PortBusyForLatency :
    (let s := { offering 0x8000000007F ready with env := [.run true [.set 1 1, .mode 9 .input]] }
     Accepts s 0x8000000007F [] ∧ decode 0x8000000007F = .command (.setBrt 127) ∧ ControlInv s ∧
     (∀ c ∈ s.env, detached s.cfg c = true) ∧ (∀ p, Instr.setBrt 127 = .setPin p → resolve s.cfg p = none) ∧
     ∃ u, exec (.setBrt 127) (taken [] s) = .next u ∧ u.seq = .idle) ∧
    (let s := { offering 0x30000000005 ready with cfg := { Config.example95 with timingDefault := ⟨1, 1⟩ } }
     Accepts s 0x30000000005 [] ∧ decode 0x30000000005 = .command (.setPin 5) ∧ ControlInv s ∧
     (∀ c ∈ s.env, detached s.cfg c = true) ∧ s.fsm = .ready ∧ resolve s.cfg 5 ≠ none ∧
     (timingOf s.cfg (some (.setPin 5))).busy = 1 ∧ ∃ u, exec (.setPin 5) (taken [] s) = .next u ∧ u.seq = .idle) := by
  refine ⟨⟨⟨by decide, by decide, rfl, by decide⟩, by decide, control_env _ (control_ready _), detached_busy,
    (fun _ h => nomatch h), _, rfl, rfl⟩, ⟨⟨by decide, by decide, rfl, by decide⟩, by decide, ?_, (fun _ h => nomatch h), rfl,
    by decide, by decide, _, rfl, rfl⟩⟩
  constructor <;> simp [offering, ready, bindState, strip, State.initial]
  decide

theorem test_witness_ResponseOnPortOnce :
    Accepts (offering 0x60000000000 ready) 0x60000000000 [] ∧ decode 0x60000000000 = .command (.getPix 0) ∧
    ControlInv (offering 0x60000000000 ready) ∧
    (∀ c ∈ (offering 0x60000000000 ready).env, detached (offering 0x60000000000 ready).cfg c = true) ∧
    ∃ u, exec (.getPix 0) (taken [] (offering 0x60000000000 ready)) = .next u ∧
      u.rsp = some { value := 0x008001, wait := 0 } ∧ u.seq = .idle :=
  ⟨accepts_ready _, by decide, control_ready _, (fun _ h => nomatch h), _, rfl, by decide, rfl⟩

/-- One cycle left with no event or one or two, and more than one cycle left. -/
theorem test_witness_BusyCycleIssuesOldestEvent :
    ∀ n es, Runs (busy n es) ∧ (busy n es).seq = .idle ∧ (busy n es).executing = some ⟨some (.setPin 2), n⟩ :=
  fun _ _ => ⟨⟨test_config_example_wf, rfl, rfl⟩, rfl, rfl⟩

/-- No word at all, and a word the host offers a cycle later. -/
theorem test_witness_IdleCycleChangesNothing :
    (Runs ready ∧ ControlInv ready ∧ ready.seq = .idle ∧ ready.executing = none ∧ cmdValid ready = false) ∧
    cmdValid { ready with host := [⟨1, 0x70000000000⟩] } = false := by
  refine ⟨⟨runs_ready, ?_, rfl, rfl, by decide⟩, by decide⟩
  constructor <;> simp [ready, bindState, strip, State.initial]
  decide

/-- An event issued, and a cycle without event. -/
theorem test_witness_IssuedEventTakesEffect :
    (rstNow (busy 2 [.clr 0 4]) = false ∧ othersNow (busy 2 [.clr 0 4]) = [] ∧
      ∃ t, step (busy 2 [.clr 0 4]) = .next t ∧ t.gpioEv = some (.clr 0 4)) ∧
    (rstNow ready = false ∧ othersNow ready = [] ∧ ∃ t, step ready = .next t ∧ t.gpioEv = none) :=
  ⟨⟨rfl, rfl, _, rfl, rfl⟩, rfl, rfl, _, rfl, rfl⟩

theorem test_witness_StepNeverStops :
    let s := frame .gap 3 7 1
    s.cfg.wf = true ∧ ControlInv s ∧ (othersNow s).all (keepsDuty s) = true ∧ ∀ st, inputs s = .reset st → st.wf = true :=
  ⟨by decide, control_frame.2.2, by decide, fun _ h => nomatch h⟩

/-! ### 41_pixel_buffer.md -/

/-- The last pixel of the strip, in range, for SETPIX3, SETPIXP, GETPIX and the round trip; the first index out of range; no
buffer. -/
theorem test_witness_SetPix3_SetPixP_GetPix :
    ((strip 2 .brg 128 []).bufValid = true ∧ (1 : PixIndex).toNat < (strip 2 .brg 128 []).nLeds.toNat) ∧
    ¬((strip 2 .brg 128 []).bufValid = true ∧ (2 : PixIndex).toNat < (strip 2 .brg 128 []).nLeds.toNat) ∧
    ¬(inert.bufValid = true ∧ (0 : PixIndex).toNat < inert.nLeds.toNat) := by decide

/-- Each channel order. -/
theorem test_witness_ChannelOrderPlacesBytes :
    ∀ o, (strip 1 o 0 []).bufValid = true ∧ (0 : PixIndex).toNat < (strip 1 o 0 []).nLeds.toNat ∧ (strip 1 o 0 []).bright = 0 ∧
      (strip 1 o 0 []).order = o := by
  intro o
  cases o <;> decide

/-- V-PIX-5 (the first index out of range) and V-PIX-8 (no buffer). -/
theorem test_witness_OutOfRangePixelIsNoOp :
    (strip 2 .brg 128 []).nLeds.toNat ≤ (2 : PixIndex).toNat ∧ inert.bufValid = false := by decide

/-- The four clauses: 0, not 0, 256, 1. -/
theorem test_witness_WriteTimeScaling :
    (0 : BitVec 9).toNat ≤ 256 ∧ (128 : BitVec 9).toNat ≤ 256 ∧ (128 : BitVec 9) ≠ 0 ∧ (256 : BitVec 9).toNat = 256 ∧
    (1 : BitVec 9).toNat = 1 := by decide

/-- The clause of the round trip at the sentinel. -/
theorem test_witness_SetThenGetRoundTrip_sentinel :
    (strip 1 .grb 0 []).bufValid = true ∧ (0 : PixIndex).toNat < (strip 1 .grb 0 []).nLeds.toNat ∧
    (strip 1 .grb 0 []).bright = 0 := by decide

/-! ### 42_brightness.md -/

theorem test_witness_SetBrtRescalesEveryByte :
    (strip 2 .rgb 128 []).bufValid = true ∧ (63 : Byte).toNat + 1 ≠ (strip 2 .rgb 128 []).bright.toNat ∧
    (127 : Byte).toNat + 1 = (strip 2 .rgb 128 []).bright.toNat ∧ (strip 2 .rgb 0 []).bright = 0 ∧
    (255 : Byte).toNat + 1 ≠ (strip 2 .rgb 0 []).bright.toNat ∧ 5 < nBytes (strip 2 .rgb 128 []) := by decide

theorem test_witness_SetBrtOnInertObjectIsNoOp : inert.bufValid = false := by decide

theorem test_witness_SetBrtTwiceRescalesOnce : (255 : Byte).toNat + 1 = (strip 2 .rgb 256 []).bright.toNat := by decide

theorem test_witness_FirstSetBrtErases : (strip 2 .rgb 0 [(0, 255)]).bufValid = true ∧ (strip 2 .rgb 0 [(0, 255)]).bright = 0 := by
  decide

theorem brightness_strip : BrightnessInv (strip 2 .rgb 2 [(5, 1)]) := by
  refine ⟨by decide, fun _ a ha => ?_⟩
  have ha : a < 6 := ha
  interval_cases a <;> decide

/-- With a new level, and with the level already stored. -/
theorem test_witness_RescaleNeverOverflows :
    BrightnessInv (strip 2 .rgb 2 [(5, 1)]) ∧ (strip 2 .rgb 2 [(5, 1)]).bufValid = true ∧
    (strip 2 .rgb 2 [(5, 1)]).bright ≠ 0 ∧ 5 < nBytes (strip 2 .rgb 2 [(5, 1)]) ∧
    (255 : Byte).toNat + 1 ≠ (strip 2 .rgb 2 [(5, 1)]).bright.toNat ∧
    (1 : Byte).toNat + 1 = (strip 2 .rgb 2 [(5, 1)]).bright.toNat :=
  ⟨brightness_strip, by decide, by decide, by decide, by decide, by decide⟩

/-- V-BRT-15: the smallest stored value the statement covers. -/
theorem test_witness_SetBrtZeroDarkens :
    BrightnessInv (strip 2 .rgb 2 [(5, 1)]) ∧ (strip 2 .rgb 2 [(5, 1)]).bufValid = true ∧
    2 ≤ (strip 2 .rgb 2 [(5, 1)]).bright.toNat :=
  ⟨brightness_strip, by decide, by decide⟩

/-! ### 43_facade.md -/

theorem test_witness_BeginBindsPin :
    resolve State.reset.cfg State.reset.pinId = some (0, 4) ∧ resolve ({ ready with pinId := 9 } : State).cfg 9 = none := by
  decide

/-- Another pin, the bound pin (R232), a machine that is not `Ready`, a pin that does not resolve. -/
theorem test_witness_SetPinRebindsInReady :
    ready.fsm = .ready ∧ resolve ready.cfg 5 = some (0, 0x20) ∧ resolve ready.cfg ready.pinId = some (0, 4) ∧
    State.reset.fsm ≠ .ready ∧ resolve State.reset.cfg 5 ≠ none ∧ resolve ready.cfg 9 = none := by decide

theorem test_witness_SetPinRecordsWhenUnbound :
    State.reset.fsm = .unbound ∧ resolve State.reset.cfg 5 = some (0, 0x20) := by decide

theorem test_witness_UnresolvedPinIgnored :
    resolve ({ State.reset with pinId := 9 } : State).cfg 9 = none ∧ resolve ready.cfg 9 = none := by decide

/-- The four ways: BEGIN, SHOW, END, the last cycle of the gap. -/
theorem test_witness_FacadeTransitions :
    (∃ t, step (offering 0x10000000000 State.reset) = .next t ∧ t.fsm ≠ State.reset.fsm) ∧
    (∃ t, step (offering 0x90000000000 ready) = .next t ∧ t.fsm ≠ ready.fsm) ∧
    (∃ t, step (offering 0x20000000000 ready) = .next t ∧ t.fsm ≠ ready.fsm) ∧
    (∃ t, step (frame .gap 3 7 1) = .next t ∧ t.fsm ≠ (frame .gap 3 7 1).fsm) ∧
    ControlInv (offering 0x10000000000 State.reset) ∧ ControlInv (offering 0x90000000000 ready) ∧
    ControlInv (offering 0x20000000000 ready) ∧ ControlInv (frame .gap 3 7 1) ∧
    rstNow State.reset = false ∧ rstNow ready = false ∧ rstNow (frame .gap 3 7 1) = false :=
  ⟨⟨_, rfl, by decide⟩, ⟨_, rfl, by decide⟩, ⟨_, rfl, by decide⟩, ⟨_, rfl, by decide⟩, control_reset _, control_ready _,
    control_ready _, control_frame.2.2, by decide, by decide, by decide⟩

/-! ### 40_protocol_encoder.md -/

/-- Ignored in `Unbound` and without a buffer; an empty buffer; a frame; a frame in progress. -/
theorem test_witness_ShowStartsFrame :
    State.reset.fsm ≠ .ready ∧ (bindState inert).bufValid = false ∧
    ((bindState (strip 0 .grb 0 [])).fsm = .ready ∧ (bindState (strip 0 .grb 0 [])).bufValid = true ∧
      (bindState (strip 0 .grb 0 [])).nLeds = 0) ∧
    (ready.fsm = .ready ∧ ready.bufValid = true ∧ ready.nLeds ≠ 0 ∧ ready.pinHandle = some 0 ∧ ready.pinMask = some 4) ∧
    (frame .gap 3 7 1).seq ≠ .idle := by decide

theorem test_witness_ShowWithoutBindingFaults :
    let s := { ready with pinHandle := none }
    let u := { ready with pinMask := none }
    (s.fsm = .ready ∧ s.bufValid = true ∧ s.nLeds ≠ 0 ∧ s.pinHandle = none) ∧
    (u.fsm = .ready ∧ u.bufValid = true ∧ u.nLeds ≠ 0 ∧ u.pinMask = none) := by decide

/-- The common hypotheses of the sequencer step, in the high phase, the low phase and the gap. -/
theorem test_witness_SequencerStep :
    ∀ s ∈ [frame .hi 0 7 2, frame .hi 2 0 1, frame .lo 0 7 1, frame .lo 0 0 1, frame .lo 2 0 1, frame .gap 3 7 1],
      Runs s ∧ s.seq ≠ .idle ∧ s.disturbed = none ∧ preemptNow s = false ∧ s.pinHandle = some 0 ∧ s.pinMask = some 4 ∧
      (s.seq = .gap ∨ s.bytePtr.toNat < nBytes s) := by
  intro s hs
  simp only [List.mem_cons, List.not_mem_nil, or_false] at hs
  rcases hs with rfl | rfl | rfl | rfl | rfl | rfl <;>
    exact ⟨⟨by decide, by decide, by decide⟩, by decide, by decide, by decide, by decide, by decide, by decide⟩

/-- The hypotheses of its six arms, in those states. -/
theorem test_witness_SequencerStep_arms :
    1 < (frame .hi 0 7 2).cnt.toNat ∧
    ((frame .gap 3 7 1).cnt.toNat ≤ 1 ∧ (frame .gap 3 7 1).seq = .gap) ∧
    ((frame .hi 2 0 1).cnt.toNat ≤ 1 ∧ (frame .hi 2 0 1).seq = .hi) ∧
    ((frame .lo 0 7 1).cnt.toNat ≤ 1 ∧ (frame .lo 0 7 1).seq = .lo ∧ 0 < (frame .lo 0 7 1).bitIdx.toNat) ∧
    ((frame .lo 0 0 1).seq = .lo ∧ (frame .lo 0 0 1).bitIdx.toNat = 0 ∧
      (frame .lo 0 0 1).bytePtr.toNat + 1 < nBytes (frame .lo 0 0 1)) ∧
    ((frame .lo 2 0 1).seq = .lo ∧ (frame .lo 2 0 1).bitIdx.toNat = 0 ∧
      (frame .lo 2 0 1).bytePtr.toNat + 1 = nBytes (frame .lo 2 0 1)) := by decide

/-- Another owner writes another bit of the bound register in the cycle of the acceptance. -/
theorem test_witness_FrameWaveform :
    let s := { offering 0x90000000000 ready with env := [.run true [.set 0 1], .run false [.set 1 4]] }
    Accepts s 0x90000000000 [] ∧ decode 0x90000000000 = .command .showFrame ∧ ControlInv s ∧ s.glitched = false ∧
    s.fsm = .ready ∧ s.bufValid = true ∧ resolve s.cfg s.pinId = some (0, 4) ∧
    ∀ c ∈ s.env.tail.take (frameDuration s + 1), undisturbed s c = true :=
  ⟨⟨by decide, by decide, rfl, by decide⟩, by decide, control_env _ (control_ready _), rfl, rfl, rfl, by decide, by decide⟩

/-- Its clause on equal bit periods (EX16). -/
theorem test_witness_FrameWaveform_equal_periods :
    let c : Config := { Config.example95 with fClk := 16000000, profile := ⟨6, 14, 12, 8, 800, 16000000⟩ }
    let s := { offering 0x90000000000 ready with cfg := c }
    Accepts s 0x90000000000 [] ∧ ControlInv s ∧ s.glitched = false ∧ s.fsm = .ready ∧ s.bufValid = true ∧
    resolve s.cfg s.pinId = some (0, 4) ∧ (∀ e ∈ s.env.tail.take (frameDuration s + 1), undisturbed s e = true) ∧
    c.profile.t0h.toNat + c.profile.t0l.toNat = c.profile.t1h.toNat + c.profile.t1l.toNat := by
  refine ⟨⟨by decide, by decide, rfl, by decide⟩, ?_, rfl, rfl, rfl, by decide, (fun _ h => nomatch h), by decide⟩
  constructor <;> simp [offering, ready, bindState, strip, State.initial]
  decide

/-- The duration of V-SEQ-10. -/
theorem test_frameDuration_V_SEQ_10 : frameDuration ready = 99 := by decide

/-- A profile with unequal bit periods (EXU) and one with equal ones (EX16). -/
theorem test_witness_FrameDurationAndEvents :
    ready.cfg.wf = true ∧
    (let c : Config := { Config.example95 with fClk := 16000000, profile := ⟨6, 14, 12, 8, 800, 16000000⟩ }
     c.wf = true ∧ c.profile.t0h.toNat + c.profile.t0l.toNat = c.profile.t1h.toNat + c.profile.t1l.toNat) := by decide

theorem test_witness_FrameCycleKeepsEverythingElse :
    (frame .hi 0 7 1).seq ≠ .idle ∧ rstNow (frame .hi 0 7 1) = false ∧ ∃ t, step (frame .hi 0 7 1) = .next t :=
  ⟨by decide, by decide, _, rfl⟩

/-! ### 60_exceptions.md -/

theorem test_witness_PreemptWhileIdleHasNoEffect :
    let s := { ready with env := [.run true []] }
    s.seq = .idle ∧ inputs s = .run true [] := by decide

theorem test_witness_PreemptedFrameEnds :
    let s := { frame .hi 0 7 1 with env := [.run true []] }
    s.cfg.wf = true ∧ ControlInv s ∧ s.seq ≠ .idle ∧ preemptNow s = true ∧ ∀ c ∈ s.env, noReset s c = true := by
  refine ⟨by decide, ?_, by decide, by decide, ?_⟩
  · exact control_env _ control_frame.1
  · intro c hc
    simp only [List.mem_cons, List.not_mem_nil, or_false] at hc
    subst hc
    decide

/-- Both clauses: a glitched machine, and one that becomes so. -/
theorem test_witness_GlitchedIsSticky :
    (∃ t, step { ready with glitched := true } = .next t ∧ rstNow { ready with glitched := true } = false) ∧
    ∃ t, step { frame .lo 0 6 2 with env := [.run true []] } = .next t ∧ t.glitched = true ∧
      rstNow { frame .lo 0 6 2 with env := [.run true []] } = false ∧ (frame .lo 0 6 2).glitched = false := by
  obtain ⟨t, h, hg⟩ := test_preempted_V_EXC_1
  exact ⟨⟨_, rfl, rfl⟩, t, h, hg, rfl, rfl⟩

/-- A one-bit mask; another register; a disjoint bit of the same register. -/
theorem test_witness_GpioEventsWriteOneBit : (4 : PortValue) ≠ 0 ∧ (0 : Handle) ≠ 1 ∧ (4 : PortValue) &&& 3 = 0 := by decide

/-- The mode of the bound pin; the bound bit; during a frame, another bit of the bound register. -/
theorem test_witness_BrokenGpioDutyFaults :
    let s := { ready with env := [.run false [.mode 2 .input, .clr 0 0x0C]] }
    let u := { frame .hi 0 7 1 with env := [.run false [.set 0 1]] }
    s.cfg.wf = true ∧ rstNow s = false ∧ GpioEvent.mode 2 .input ∈ othersNow s ∧ GpioEvent.clr 0 0x0C ∈ othersNow s ∧
    s.fsm ≠ .unbound ∧ s.pinId = 2 ∧ s.pinHandle = some 0 ∧ s.pinMask = some 4 ∧ (0x0C : PortValue) &&& 4 ≠ 0 ∧
    u.cfg.wf = true ∧ rstNow u = false ∧ GpioEvent.set 0 1 ∈ othersNow u ∧ u.pinHandle = some 0 ∧ u.pinMask = some 4 ∧
    u.crit = true := by decide

/-! ### 10_state.md -/

/-- The three clauses: a SETPIN executing, unbound, ready. -/
theorem test_witness_WireIdleLevel :
    (ControlInv (busy 2 []) ∧ (busy 2 []).glitched = false ∧ (busy 2 []).seq = .idle ∧ pinCommandExecuting (busy 2 []) = true) ∧
    (ControlInv (offering 0 State.reset) ∧ pinCommandExecuting (offering 0 State.reset) = false ∧
      (offering 0 State.reset).glitched = false ∧ (offering 0 State.reset).seq = .idle ∧
      (offering 0 State.reset).fsm = .unbound) ∧
    (ControlInv (offering 0 ready) ∧ pinCommandExecuting (offering 0 ready) = false ∧
      (offering 0 ready).glitched = false ∧ (offering 0 ready).seq = .idle ∧ (offering 0 ready).fsm = .ready) :=
  ⟨⟨control_busy 2 [] (by decide) (by decide), rfl, rfl, rfl⟩, ⟨control_reset _, rfl, rfl, rfl, rfl⟩,
    ⟨control_ready _, rfl, rfl, rfl, rfl⟩⟩

theorem test_witness_ConfigurationConstant : rstNow ready = false ∧ ∃ t, step ready = .next t := ⟨by decide, _, rfl⟩

theorem test_witness_OnlyMutatorsChangeBuffer :
    rstNow (offering 0x40000FF0000 ready) = false ∧
    ∃ t, step (offering 0x40000FF0000 ready) = .next t ∧ bufGet t.buf 1 ≠ bufGet (offering 0x40000FF0000 ready).buf 1 :=
  ⟨by decide, _, rfl, by decide⟩

theorem test_witness_OnlySetBrtAndSetPinWriteTheirRegisters :
    (rstNow (offering 0x80000000000 ready) = false ∧
      ∃ t, step (offering 0x80000000000 ready) = .next t ∧ t.bright ≠ (offering 0x80000000000 ready).bright) ∧
    ∃ t, step (offering 0x30000000005 ready) = .next t ∧ t.pinId ≠ (offering 0x30000000005 ready).pinId :=
  ⟨⟨by decide, _, rfl, by decide⟩, _, rfl, by decide⟩

theorem test_witness_StepKeepsControlInvariant :
    ControlInv (frame .lo 2 0 1) ∧ ∃ t, step (frame .lo 2 0 1) = .next t := ⟨control_frame.2.1, _, rfl⟩

theorem test_witness_StepKeepsBufferInvariant :
    BufferInv (offering 0x40000FF0000 ready) ∧ ∃ t, step (offering 0x40000FF0000 ready) = .next t :=
  ⟨⟨by decide, by decide, by decide⟩, _, rfl⟩

theorem test_witness_StepKeepsBrightnessInvariant :
    BrightnessInv (offering 0x80000000000 (strip 2 .rgb 2 [(5, 1)])) ∧
    ∃ t, step (offering 0x80000000000 (strip 2 .rgb 2 [(5, 1)])) = .next t :=
  ⟨⟨brightness_strip.1, brightness_strip.2⟩, _, rfl⟩

theorem test_witness_EveryProgramEnds :
    let s := { offering 0x90000000000 ready with env := [.run true [.set 1 1, .mode 9 .input]] }
    s.cfg.wf = true ∧ ControlInv s ∧ ∀ c ∈ s.env, detached s.cfg c = true :=
  ⟨by decide, control_env _ (control_ready _), detached_busy⟩

/-- In `Ready`, and in `Unbound` in the cycle that accepts a BEGIN. -/
theorem test_witness_StepKeepsPinMode :
    (ControlInv (busy 1 [.mode 2 .output]) ∧ PinModeInv (busy 1 [.mode 2 .output]) ∧ (busy 1 [.mode 2 .output]).fsm ≠ .unbound ∧
      ∃ t, step (busy 1 [.mode 2 .output]) = .next t) ∧
    (ControlInv (offering 0x10000000000 State.reset) ∧ PinModeInv (offering 0x10000000000 State.reset) ∧
      othersNow (offering 0x10000000000 State.reset) = [] ∧
      ∃ t, step (offering 0x10000000000 State.reset) = .next t ∧ t.fsm = .ready) :=
  ⟨⟨control_busy _ _ (by decide) (by decide), fun _ _ => by decide, by decide, _, rfl⟩,
    control_reset _, fun _ h => absurd rfl h, rfl, _, rfl, rfl⟩

/-- Both forms of the invariant: nothing to issue, and the last event of a SETPIN to issue. -/
theorem test_witness_StepKeepsPinLevel :
    (ControlInv (offering 0x90000000000 ready) ∧ PinLevelInv (offering 0x90000000000 ready) ∧
      ∃ t, step (offering 0x90000000000 ready) = .next t) ∧
    (ControlInv (busy 1 [.clr 0 4]) ∧ PinLevelInv (busy 1 [.clr 0 4]) ∧ ∃ t, step (busy 1 [.clr 0 4]) = .next t) := by
  refine ⟨⟨control_ready _, ⟨fun _ _ _ h m hh hm => ?_, fun _ _ h => absurd rfl h⟩, _, rfl⟩,
    ⟨control_busy _ _ (by decide) (by decide), ⟨fun _ _ h => absurd h (by decide), fun _ _ _ => ⟨rfl, fun h m hh hm => ?_⟩⟩, _, rfl⟩⟩
  · cases hh; cases hm; decide
  · cases hh; cases hm; decide

end Sys2Proof.Tests
end

section
/-! PROOFS. The agreement of the facade, the sequencer, the outputs and the binding (R45 (a) to (e), (i)), split into what it says
of a state outside a frame, of a state of a frame, and of the port; every step keeps it. -/

namespace Sys2Proof.Machine

open Sys2Proof

/-! ## The well-formed configuration -/

theorem isOneHot_iff {w m : Nat} : isOneHot w m = true ↔ ∃ j, j < w ∧ m = 2 ^ j := by
  simp [isOneHot]

theorem timing_wf_iff {t : CmdTiming} : t.wf = true ↔ 1 ≤ t.busy ∧ 1 ≤ t.rsp ∧ t.rsp ≤ t.busy + 1 := by
  simp [CmdTiming.wf, and_assoc]

theorem bne_zero_iff_toNat_pos {w : Nat} {x : BitVec w} : (x != 0) = true ↔ 1 ≤ x.toNat := by
  rw [bne_iff_ne, ne_eq, ← BitVec.toNat_inj]
  simp [Nat.one_le_iff_ne_zero]

theorem profile_wf_iff {p : Profile} : p.wf = true ↔
    p.t0h.toNat < p.t1h.toNat ∧ 1 ≤ p.t0h.toNat ∧ 1 ≤ p.t0l.toNat ∧ 1 ≤ p.t1h.toNat ∧ 1 ≤ p.t1l.toNat ∧
      1 ≤ p.tres.toNat := by
  simp only [Profile.wf, Bool.and_eq_true, bne_zero_iff_toNat_pos, decide_eq_true_eq, BitVec.lt_def, and_assoc]

theorem config_wf_iff {c : Config} : c.wf = true ↔
    0 < c.fClk ∧ c.profile.tagHz = c.fClk ∧ c.profile.wf = true ∧ 0 < c.portW ∧
      (∀ r ∈ c.pins, isOneHot c.portW r.mask = true) ∧ c.timingDefault.wf = true ∧ ∀ r ∈ c.timing, r.2.wf = true := by
  simp [Config.wf, PinRow.wf, and_assoc]

/-- R8 (b), R11: every phase of a frame lasts at least one cycle. -/
theorem phase_times_pos {c : Config} (hw : c.wf = true) (b : Bool) :
    1 ≤ (highTime c.profile b).toNat ∧ 1 ≤ (lowTime c.profile b).toNat ∧ 1 ≤ c.profile.tres.toNat := by
  obtain ⟨-, -, hp, -⟩ := config_wf_iff.1 hw
  obtain ⟨-, h0, l0, h1, l1, hr⟩ := profile_wf_iff.1 hp
  cases b
  · exact ⟨h0, l0, hr⟩
  · exact ⟨h1, l1, hr⟩

/-! ## The parts of the invariant -/

/-- R45 (e): the bound pin resolves to the pair the block holds. -/
def HoldsBinding (s : State) : Prop :=
  ∃ h m, resolve s.cfg s.pinId = some (h, m) ∧ s.pinHandle = some h ∧ s.pinMask = some m

/-- R45 outside a frame. -/
structure IdleFacade (s : State) : Prop where
  seq_idle : s.seq = .idle
  not_transmitting : s.fsm ≠ .transmitting
  oe_iff : s.oe = true ↔ s.fsm ≠ .unbound
  crit_off : s.crit = false
  mt_off : s.mtSuspend = false
  line_low : s.line = false
  bound : s.fsm ≠ .unbound → HoldsBinding s
  undisturbed : s.disturbed = none

/-- R45 in a cycle of a frame. -/
structure FrameFacade (s : State) : Prop where
  seq_busy : s.seq ≠ .idle
  transmitting : s.fsm = .transmitting
  oe_on : s.oe = true
  crit_on : s.crit = true
  mt_on : s.mtSuspend = true
  line_hi : s.line = true → s.seq = .hi
  bound : HoldsBinding s
  bytePtr_lt : s.seq = .hi ∨ s.seq = .lo → s.bytePtr.toNat < nBytes s
  gap_ptr : s.seq = .gap → s.bytePtr.toNat = nBytes s
  cnt_pos : 1 ≤ s.cnt.toNat
  disturbed_marked : s.disturbed ≠ none → s.glitched = true

/-- R45 of the facade, the sequencer, the outputs and the binding, in a frame or outside one. -/
def Facade (s : State) : Prop := FrameFacade s ∨ IdleFacade s

/-- R91, R95, R261: what the port in use says of the events and the response still to come. -/
structure PortInv (s : State) : Prop where
  events_out : s.executing = none → s.gpioPending = []
  busy_pos : ∀ e, s.executing = some e → 1 ≤ e.left
  busy_events : ∀ e, s.executing = some e → s.gpioPending.length ≤ e.left
  rsp_wait : ∀ r, s.rsp = some r → r.wait ≤ (s.executing.map Executing.left).getD 0

theorem ControlInv.facade {s : State} (hc : ControlInv s) : Facade s := by
  by_cases hs : s.seq = .idle
  · have hf : s.fsm ≠ .transmitting := fun h => hc.frame_iff.1 h hs
    have hcrit : s.crit = false := Bool.eq_false_iff.2 fun h => hf (hc.crit_iff.1 h)
    exact .inr {
      seq_idle := hs
      not_transmitting := hf
      oe_iff := hc.oe_iff
      crit_off := hcrit
      mt_off := hc.mt_eq.trans hcrit
      line_low := Bool.eq_false_iff.2 fun h => by simp [hc.line_hi h] at hs
      bound := hc.bound
      undisturbed := by_contra fun h => (hc.disturbed_frame h).1 hs }
  · have hf : s.fsm = .transmitting := hc.frame_iff.2 hs
    have hu : s.fsm ≠ .unbound := by simp [hf]
    exact .inl {
      seq_busy := hs
      transmitting := hf
      oe_on := hc.oe_iff.2 hu
      crit_on := hc.crit_iff.2 hf
      mt_on := hc.mt_eq.trans (hc.crit_iff.2 hf)
      line_hi := hc.line_hi
      bound := hc.bound hu
      bytePtr_lt := hc.bytePtr_lt
      gap_ptr := hc.gap_ptr
      cnt_pos := hc.cnt_pos hs
      disturbed_marked := fun h => (hc.disturbed_frame h).2 }

theorem Facade.frame {s : State} (h : Facade s) (hs : s.seq ≠ .idle) : FrameFacade s :=
  h.resolve_right fun h => hs h.seq_idle

theorem Facade.idle {s : State} (h : Facade s) (hs : s.seq = .idle) : IdleFacade s :=
  h.resolve_left fun h => h.seq_busy hs

theorem ControlInv.frame {s : State} (hc : ControlInv s) (hs : s.seq ≠ .idle) : FrameFacade s := hc.facade.frame hs

theorem ControlInv.idle {s : State} (hc : ControlInv s) (hs : s.seq = .idle) : IdleFacade s := hc.facade.idle hs

theorem controlInv_of_idle {s : State} (h : IdleFacade s) (hp : PortInv s) : ControlInv s where
  frame_iff := by simp [h.seq_idle, h.not_transmitting]
  oe_iff := h.oe_iff
  crit_iff := by simp [h.crit_off, h.not_transmitting]
  mt_eq := h.mt_off.trans h.crit_off.symm
  line_hi := by simp [h.line_low]
  bound := h.bound
  bytePtr_lt := by simp [h.seq_idle]
  gap_ptr := by simp [h.seq_idle]
  cnt_pos := by simp [h.seq_idle]
  disturbed_frame := by simp [h.undisturbed]
  frame_port := by simp [h.seq_idle]
  events_out := hp.events_out
  busy_pos := hp.busy_pos
  busy_events := hp.busy_events
  rsp_wait := hp.rsp_wait

theorem controlInv_of_frame {s : State} (h : FrameFacade s) (he : s.executing = none) (hp : PortInv s) :
    ControlInv s where
  frame_iff := by simp [h.seq_busy, h.transmitting]
  oe_iff := by simp [h.oe_on, h.transmitting]
  crit_iff := by simp [h.crit_on, h.transmitting]
  mt_eq := h.mt_on.trans h.crit_on.symm
  line_hi := h.line_hi
  bound := fun _ => h.bound
  bytePtr_lt := h.bytePtr_lt
  gap_ptr := h.gap_ptr
  cnt_pos := fun _ => h.cnt_pos
  disturbed_frame := fun hd => ⟨h.seq_busy, h.disturbed_marked hd⟩
  frame_port := fun _ => he
  events_out := hp.events_out
  busy_pos := hp.busy_pos
  busy_events := hp.busy_events
  rsp_wait := hp.rsp_wait

/-! ## The port at the end of a cycle -/

/-- The end of a cycle writes nothing the facade's part speaks of. -/
theorem facade_closeCycle {s : State} (os : List GpioEvent) (h : Facade s) : Facade (closeCycle os s) := by
  obtain ⟨o, m, he⟩ := closeCycle_same os s
  rw [he]
  exact h.imp (fun h => { h with }) (fun h => { h with })

/-- A cycle that leaves the port free, with no more events than it issues and no response on its way. -/
theorem controlInv_closeCycle_free {u : State} (os : List GpioEvent) (hf : Facade u) (he : u.executing = none)
    (hp : u.gpioPending.length ≤ 1) (hr : u.rsp = none) : ControlInv (closeCycle os u) := by
  have hport : PortInv (closeCycle os u) := by
    constructor
    · intro _
      exact List.eq_nil_of_length_eq_zero (by simp; omega)
    all_goals simp [he, hr]
  rcases facade_closeCycle os hf with h | h
  · exact controlInv_of_frame h (by simp [he]) hport
  · exact controlInv_of_idle h hport

/-- Outside a frame the accepted word occupies the port (R91), and its response comes in its cycle (R95). -/
theorem occupy_of_idle (cmd : Option Instr) {s : State} (hs : s.seq = .idle) :
    occupy cmd s = { s with
      executing := some { cmd := cmd, left := latency cmd s }
      rsp := s.rsp.map fun r => { r with wait := (timingOf s.cfg cmd).rsp - 1 } } := by
  rw [occupy, if_pos hs]

/-- A cycle that accepted a word and started no frame: the port is busy long enough for its events and its response. -/
theorem controlInv_closeCycle_occupy {u : State} (cmd : Option Instr) (os : List GpioEvent) (hw : u.cfg.wf = true)
    (h : IdleFacade u) : ControlInv (closeCycle os (occupy cmd u)) := by
  obtain ⟨hb, -, hr⟩ := timingOf_wf hw cmd
  obtain ⟨hl, hg⟩ := latency_bounds cmd u
  have hi : IdleFacade (occupy cmd u) := by
    rw [occupy_eq]
    exact { h with }
  refine controlInv_of_idle ((facade_closeCycle os (.inr hi)).idle (by simp [hi.seq_idle])) ?_
  rw [occupy_of_idle cmd h.seq_idle]
  constructor
  · simp
  · simp; omega
  · simp; omega
  · intro r hr'
    simp only [closeCycle_rsp, Option.map_eq_some_iff] at hr'
    obtain ⟨r0, -, rfl⟩ := hr'
    simp
    omega

/-- R91, R261: a cycle of a command in execution uses up one of its cycles and one of its events. -/
theorem portInv_busyCycle {s : State} {e : Executing} (os : List GpioEvent) (hc : ControlInv s)
    (he : s.executing = some e) : PortInv (release e (closeCycle os (tick s))) := by
  have hg := hc.busy_events e he
  have hr := advanceRsp_busy hc he
  by_cases h1 : 1 < e.left
  · constructor
    · simp [release, h1]
    · simp [release, h1]; omega
    · simp [release, h1]; omega
    · intro r hw
      have := hr r (by simpa [release] using hw)
      simp [release, h1]
      omega
  · constructor
    · intro _
      exact List.eq_nil_of_length_eq_zero (by simp [release]; omega)
    · simp [release, h1]
    · simp [release, h1]
    · intro r hw
      have := hr r (by simpa [release] using hw)
      omega

/-! ## The facade's part, operation by operation -/

theorem facade_tick {s : State} (h : Facade s) : Facade (tick s) := h.imp (fun h => { h with }) (fun h => { h with })

theorem idleFacade_taken {s : State} (rest : List Offer) (h : IdleFacade s) : IdleFacade (taken rest s) := { h with }

/-- R134, R258: the end of a frame with the line low. -/
theorem idleFacade_endFrame {s : State} (h : FrameFacade s) (hl : s.line = false) (hd : s.disturbed = none) :
    IdleFacade (endFrame s) where
  seq_idle := by simp
  not_transmitting := by simp
  oe_iff := by simp [h.oe_on]
  crit_off := by simp
  mt_off := by simp
  line_low := by simp [hl]
  bound := fun _ => h.bound
  undisturbed := by simp [hd]

/-- R266: one cycle of the disturbed rest of a frame, or its end. -/
theorem facade_disturbedStep (n : Nat) {s : State} (h : FrameFacade s) (hg : s.glitched = true) :
    Facade (disturbedStep n s) := by
  have ht : FrameFacade (emit (Config.disturbedCycle s.draws).event.toList { s with draws := s.draws + 1 }) := { h with }
  cases n with
  | zero =>
    show Facade (endFrame _)
    exact .inr (idleFacade_endFrame { ht with line_hi := by simp, disturbed_marked := by simp } rfl rfl)
  | succ k =>
    obtain ⟨hs, hl, hc, hb, hgap⟩ := disturbedPosition_limits (Config.disturbedCycle s.draws)
      { emit (Config.disturbedCycle s.draws).event.toList { s with draws := s.draws + 1 } with disturbed := some k }
    exact .inl { h with
      seq_busy := hs, line_hi := hl, cnt_pos := hc, bytePtr_lt := hb, gap_ptr := hgap, disturbed_marked := fun _ => hg }

theorem nextBit_le {p i n q j : Nat} (hp : p < n) (h : nextBit p i = (q, j)) : q ≤ n := by
  unfold nextBit at h
  split at h <;> cases h <;> omega

/-- R24, R33: `NBYTES` fits `BYTE_PTR`. -/
theorem toNat_ofNat_bytePtr {s : State} {p : Nat} (h : p ≤ nBytes s) : (BitVec.ofNat 18 p).toNat = p := by
  have := s.nLeds.isLt
  unfold nBytes at h
  rw [BitVec.toNat_ofNat]
  omega

/-- R134: the sequencer step from an undisturbed cycle of a frame. -/
theorem facade_sequencerStep {s u : State} (hw : s.cfg.wf = true) (h : FrameFacade s) (hd : s.disturbed = none)
    (hu : sequencerStep s = .ok u) : Facade u := by
  have hpos := phase_times_pos hw
  have low {q : Seq} (hq : s.seq = q) (hne : q ≠ .hi) : s.line = false :=
    Bool.eq_false_iff.2 fun hl => hne (hq.symm.trans (h.line_hi hl))
  cases sequencerStep_cases h.seq_busy hu with
  | count _ hc =>
    refine .inl { h with cnt_pos := ?_ }
    have : (1 : BitVec 32).toNat = 1 := rfl
    simp only [BitVec.toNat_sub_of_le (BitVec.le_def.2 (this ▸ hc.le)), this]
    omega
  | low p m hq _ hb => exact .inl { h with
      seq_busy := by simp [lowStarted], line_hi := by simp [lowStarted], bytePtr_lt := fun _ => hb
      gap_ptr := by simp [lowStarted], cnt_pos := (hpos _).2.1 }
  | next p i hh m hq _ hn hp => exact .inl { h with
      seq_busy := by simp [nextBitStarted], line_hi := by simp [nextBitStarted], gap_ptr := by simp [nextBitStarted]
      bytePtr_lt := fun _ => (toNat_ofNat_bytePtr hp.le).trans_lt hp, cnt_pos := (hpos _).1 }
  | gap p i hq _ hn hp => exact .inl { h with
      seq_busy := by simp [gapStarted], line_hi := by simp [gapStarted, low hq], bytePtr_lt := by simp [gapStarted]
      gap_ptr := fun _ => (toNat_ofNat_bytePtr hp.le).trans hp, cnt_pos := (hpos true).2.2 }
  | finish hq => exact .inr (idleFacade_endFrame h (low hq (by simp)) hd)

/-- R134, R261: a sequencer step calls at most one event. -/
theorem sequencerStep_events {s u : State} (hs : s.seq ≠ .idle) (hu : sequencerStep s = .ok u) :
    u.gpioPending.length ≤ s.gpioPending.length + 1 := by
  cases sequencerStep_cases hs hu <;> simp [lowStarted, nextBitStarted, gapStarted]

/-- R266, R261: a disturbed cycle calls at most one event. -/
theorem disturbedStep_events (n : Nat) (s : State) :
    (disturbedStep n s).gpioPending.length ≤ s.gpioPending.length + 1 := by
  cases n <;> simp [disturbedStep]

/-- R266: a disturbed cycle of a frame, whichever free values it takes. -/
theorem controlInv_disturbedStep (n : Nat) {s : State} (os : List GpioEvent) (hf : FrameFacade s)
    (hg : s.glitched = true) (he : s.executing = none) (hp : s.gpioPending = []) (hr : s.rsp = none) :
    ControlInv (closeCycle os (disturbedStep n s)) := by
  obtain ⟨-, -, -, -, -, -, -, -, -, -, -, -, -, hex, hrsp⟩ := disturbedStep_keeps n s
  have hev := disturbedStep_events n s
  exact controlInv_closeCycle_free os (facade_disturbedStep n hf hg) (hex.trans he) (by simpa [hp] using hev)
    (hrsp.trans hr)

/-- R220: what an accepted command leaves of the facade. -/
theorem facade_exec {i : Instr} {s u : State} (hw : s.cfg.wf = true) (h : IdleFacade s) (hx : exec i s = .next u) :
    Facade u := by
  have hb : s.fsm = .ready → HoldsBinding s := fun hf => h.bound (by simp [hf])
  have hoe : s.fsm = .ready → s.oe = true := fun hf => h.oe_iff.2 (by simp [hf])
  have hpos := phase_times_pos hw
  cases exec_cases hx with
  | ignored => exact .inr h
  | empty _ hf _ hn => exact .inl {
      seq_busy := by simp [emptyFrameStart], transmitting := rfl, oe_on := hoe hf, crit_on := rfl, mt_on := rfl
      line_hi := by simp [emptyFrameStart, h.line_low], bound := hb hf, bytePtr_lt := by simp [emptyFrameStart]
      gap_ptr := by simp [emptyFrameStart, nBytes, hn], cnt_pos := (hpos true).2.2
      disturbed_marked := fun hd => absurd h.undisturbed hd }
  | frame p m _ hf _ hn => exact .inl {
      seq_busy := by simp [frameStart], transmitting := rfl, oe_on := hoe hf, crit_on := rfl, mt_on := rfl
      line_hi := fun _ => rfl, bound := hb hf
      bytePtr_lt := fun _ => by
        have : s.nLeds.toNat ≠ 0 := fun h => hn (BitVec.eq_of_toNat_eq (by simpa using h))
        simp [frameStart, nBytes]; omega
      gap_ptr := by simp [frameStart], cnt_pos := (hpos _).1
      disturbed_marked := fun hd => absurd h.undisturbed hd }
  | result hi =>
    refine .inr ?_
    cases i with
    | showFrame => exact absurd rfl hi
    | beginBind =>
      cases hr : resolve s.cfg s.pinId with
      | none => simpa [resultOf, hr] using h
      | some hm =>
        simp only [resultOf, hr]
        exact { h with
          not_transmitting := by simp, oe_iff := by simp, line_low := rfl, bound := fun _ => ⟨_, _, hr, rfl, rfl⟩ }
    | endBind => exact { h with
        not_transmitting := by simp [resultOf], oe_iff := by simp [resultOf], bound := fun hf => absurd rfl hf }
    | setPin p =>
      cases hr : resolve s.cfg p with
      | none => simpa [resultOf, hr] using h
      | some hm =>
        by_cases hf : s.fsm = .ready
        · simp only [resultOf, hr, if_pos hf]
          exact { h with line_low := rfl, bound := fun _ => ⟨_, _, hr, rfl, rfl⟩ }
        · have hu : s.fsm = .unbound := by
            have := h.not_transmitting
            cases hq : s.fsm <;> simp_all
          simp only [resultOf, hr, if_neg hf]
          exact { h with bound := fun hn => absurd hu hn }
    | setPix3 | setPixP | setBrt =>
      simp only [resultOf]
      split
      · exact { h with }
      · exact h
    | getPix | numPix | color => exact { h with }

/-- R131: a command that starts a frame leaves the port free, with at most the event of the first bit. -/
theorem exec_frame_port {i : Instr} {s u : State} (hx : exec i s = .next u) (hs : s.seq = .idle) (hu : u.seq ≠ .idle) :
    u.rsp = s.rsp ∧ u.gpioPending.length ≤ s.gpioPending.length + 1 := by
  cases exec_cases hx with
  | ignored => exact absurd hs hu
  | empty => simp [emptyFrameStart]
  | frame => simp [frameStart]
  | result hi =>
    refine absurd ?_ hu
    cases i with
    | showFrame => exact absurd rfl hi
    | beginBind => simp only [resultOf]; split <;> exact hs
    | setPin => simp only [resultOf]; split <;> [exact hs; (split <;> exact hs)]
    | setPix3 | setPixP | setBrt => simp only [resultOf]; split <;> exact hs
    | endBind | getPix | numPix | color => exact hs

/-! ## The step -/

theorem controlInv_initial (c : Config) (st : Straps) (o : ChannelOrder) : ControlInv (State.initial c st o) :=
  controlInv_of_idle
    { seq_idle := rfl, not_transmitting := by simp [State.initial], oe_iff := by simp [State.initial], crit_off := rfl
      mt_off := rfl, line_low := rfl, bound := fun h => absurd rfl h, undisturbed := rfl }
    (by constructor <;> simp [State.initial])

theorem controlInv_resetState (st : Straps) (o : ChannelOrder) (s : State) : ControlInv (resetState st o s) :=
  { controlInv_initial s.cfg st o with }

/-- Every step keeps the agreement of the facade, the sequencer, the outputs, the binding and the port. -/
theorem controlInv_step {s t : State} (hc : ControlInv s) (h : step s = .next t) : ControlInv t := by
  have free (he : s.executing = none) : s.gpioPending = [] ∧ (tick s).rsp = none :=
    ⟨hc.events_out he, advanceRsp_free hc he⟩
  cases step_cases h with
  | reset => exact controlInv_resetState _ _ _
  | disturbed n _ hs hd =>
    have he := hc.frame_port hs
    obtain ⟨hp, hr⟩ := free he
    exact controlInv_disturbedStep n _ ((facade_tick hc.facade).frame hs)
      (hc.disturbed_frame (by simp [hd])).2 he hp hr
  | preempted _ hs =>
    have he := hc.frame_port hs
    obtain ⟨hp, hr⟩ := free he
    exact controlInv_disturbedStep _ _ { (facade_tick hc.facade).frame hs with disturbed_marked := fun _ => rfl }
      rfl he hp hr
  | sequencer u hrun hs hd _ hu =>
    have he := hc.frame_port hs
    obtain ⟨hp, hr⟩ := free he
    have hf : FrameFacade (tick s) := (facade_tick hc.facade).frame hs
    obtain ⟨-, -, -, -, -, -, -, -, -, -, -, -, -, hex, hrsp, -⟩ := sequencerStep_keeps hf.seq_busy hu
    have hev := sequencerStep_events hf.seq_busy hu
    exact controlInv_closeCycle_free _ (facade_sequencerStep (s := tick s) hrun.cfg_wf hf hd hu) (hex.trans he)
      (by simpa [hp] using hev) (hrsp.trans hr)
  | busy e _ hs he =>
    have hi : IdleFacade (closeCycle (othersNow s) (tick s)) :=
      (facade_closeCycle _ (facade_tick hc.facade)).idle (by simp [hs])
    exact controlInv_of_idle { hi with } (portInv_busyCycle _ hc he)
  | idle rest _ hs he =>
    obtain ⟨hp, hr⟩ := free he
    exact controlInv_closeCycle_free _ (.inr (idleFacade_taken rest (hc.idle hs))) he (by simp [hp]) hr
  | reserved w rest op ha => exact controlInv_closeCycle_occupy _ _ ha.cfg_wf (idleFacade_taken rest (hc.idle ha.seq_idle))
  | command w rest i u ha _ hx =>
    obtain ⟨hp, hr⟩ := free ha.not_executing
    obtain ⟨hcfg, -, -, -, -, -, -, hex, -⟩ := exec_keeps hx
    have hf : Facade u := facade_exec (s := taken rest s) ha.cfg_wf (idleFacade_taken rest (hc.idle ha.seq_idle)) hx
    by_cases hu : u.seq = .idle
    · exact controlInv_closeCycle_occupy _ _ ((congrArg Config.wf hcfg).trans ha.cfg_wf) (hf.idle hu)
    · obtain ⟨hrsp, hev⟩ := exec_frame_port hx ha.seq_idle hu
      rw [occupy, if_neg hu]
      exact controlInv_closeCycle_free _ hf (hex.trans ha.not_executing) (by simpa [hp] using hev) (hrsp.trans hr)

end Sys2Proof.Machine
end

section
/-! PROOFS. From a state that keeps R45 a cycle in which nothing outside the block goes wrong answers a next state (R250); other
owners that keep off the pin table keep the duties of R264. -/

namespace Sys2Proof.Machine

open Sys2Proof

/-! ## The kinds of cycles that stop, forward -/

/-- R8: a machine whose configuration is not well-formed refuses every cycle. -/
theorem step_illFormed {s : State} (hw : s.cfg.wf = false) : step s = .refused .illFormedConfiguration := by
  simp [step, cycle, activity, hw]

/-- R99: the reset that samples the reserved channel order is refused. -/
theorem step_reset_illFormed {s : State} {st : Straps} (hw : s.cfg.wf = true) (hi : inputs s = .reset st)
    (ho : orderOfCode st.order = none) : step s = .refused .illFormedStraps := by
  simp [step, cycle, activity, hw, hi, resetCycle, ho]

/-! ## Progress -/

/-- R134, R31: the sequencer step of a frame reads the buffer within its range and a bound pin. -/
theorem sequencerStep_progress {s : State} (h : FrameFacade s) : ∃ u, sequencerStep s = .ok u := by
  obtain ⟨p, m, -, hp, hm⟩ := h.bound
  by_cases hc : 1 < s.cnt.toNat
  · exact ⟨_, sequencerStep_count h.seq_busy hc⟩
  have hc : s.cnt.toNat ≤ 1 := by omega
  cases hq : s.seq with
  | idle => exact absurd hq h.seq_busy
  | hi => exact ⟨_, sequencerStep_low hq hc (h.bytePtr_lt (.inl hq)) hp hm⟩
  | gap => exact ⟨_, sequencerStep_finish hq hc⟩
  | lo =>
    rcases hn : nextBit s.bytePtr.toNat s.bitIdx.toNat with ⟨q, i⟩
    rcases (nextBit_le (h.bytePtr_lt (.inr hq)) hn).lt_or_eq with hlt | heq
    · exact ⟨_, sequencerStep_next hq hc hn hlt hp hm⟩
    · exact ⟨_, sequencerStep_gap hq hc hn heq⟩

/-- R131, R31: every command answers a next state outside a frame. -/
theorem exec_progress (i : Instr) {s : State} (h : IdleFacade s) : ∃ u, exec i s = .next u := by
  by_cases hi : i = .showFrame
  · subst hi
    rcases execShow_cases s with ⟨-, hx⟩ | ⟨-, -, -, hx⟩ | ⟨hf, -, -, ⟨_, _, -, -, hx⟩ | ⟨hn, -⟩⟩
    · exact ⟨_, hx⟩
    · exact ⟨_, hx⟩
    · exact ⟨_, hx⟩
    · obtain ⟨p, m, -, hp, hm⟩ := h.bound (by simp [hf])
      simp [hp, hm] at hn
  · exact ⟨_, exec_eq_resultOf i s hi⟩

theorem frameCycle_progress (p : Bool) {s : State} (h : FrameFacade s) : ∃ t, frameCycle p s = .next t := by
  unfold frameCycle
  cases s.disturbed with
  | some n => exact ⟨_, rfl⟩
  | none =>
    cases p with
    | true => exact ⟨_, rfl⟩
    | false =>
      obtain ⟨u, hu⟩ := sequencerStep_progress (s := tick s) { h with }
      simp [hu]

theorem acceptCycle_progress (w : CmdWord) (rest : List Offer) {s : State} (h : IdleFacade s) :
    ∃ t, acceptCycle exec w rest s = .next t := by
  unfold acceptCycle
  cases decode w with
  | reserved op => exact ⟨_, rfl⟩
  | command i =>
    obtain ⟨u, hu⟩ := exec_progress i (idleFacade_taken rest h)
    simp [hu, closeAccept]

/-- With the port ready, the host's activity is that of an idle cycle or of an acceptance. -/
theorem hostActivity_cases (s : State) :
    (∃ rest, hostActivity s = .idle rest) ∨ ∃ w rest, hostActivity s = .accept w rest := by
  unfold hostActivity
  split
  · exact .inl ⟨_, rfl⟩
  · split
    · exact .inr ⟨_, _, rfl⟩
    · exact .inl ⟨_, rfl⟩

/-- R250: a cycle in which nothing outside the block goes wrong answers a next state. -/
theorem step_progress {s : State} (hr : Runs s) (hc : ControlInv s) : ∃ t, step s = .next t := by
  by_cases hs : s.seq = .idle
  · cases he : s.executing with
    | some e => exact ⟨_, step_busy hr hs he⟩
    | none =>
      rcases hostActivity_cases s with ⟨rest, ha⟩ | ⟨w, rest, ha⟩
      · simp [step, cycle, activity_of_runs hr, hs, he, ha, idleCycle]
      · simpa [step, cycle, activity_of_runs hr, hs, he, ha] using acceptCycle_progress w rest (hc.idle hs)
  · rw [step_frame hr hs]
    exact frameCycle_progress _ (hc.frame hs)

/-! ## Other owners that keep off the pin table -/

/-- R7: what a pin resolves to stands in a row of the pin table. -/
theorem resolve_row {c : Config} {p : PinId} {h : Handle} {m : PortValue} (hr : resolve c p = some (h, m)) :
    ∃ r ∈ c.pins, r.pin = p ∧ r.handle = h := by
  obtain ⟨r, hf, he⟩ := Option.map_eq_some_iff.1 hr
  exact ⟨r, List.mem_of_find?_eq_some hf, by simpa using List.find?_some hf, congrArg Prod.fst he⟩

/-- R264: an event off the pin table touches neither a bound pin nor its register. -/
theorem keepsDuty_of_offTable {s : State} {e : GpioEvent} (hc : ControlInv s) (ho : offTable s.cfg e = true) :
    keepsDuty s e = true := by
  by_cases hf : s.fsm = .unbound
  · have hcrit : s.crit = false := Bool.eq_false_iff.2 fun h => by simpa [hf] using hc.crit_iff.1 h
    cases e <;> simp [keepsDuty, hf, hcrit]
  · obtain ⟨h, m, hr, hh, -⟩ := hc.bound hf
    obtain ⟨r, hmem, hp, hr⟩ := resolve_row hr
    cases e with
    | mode p d =>
      have hne : r.pin ≠ p := by simpa using List.all_eq_true.1 ho r hmem
      simp [keepsDuty, ← hp, hne.symm]
    | set k n | clr k n =>
      have hne : r.handle ≠ k := by simpa using List.all_eq_true.1 ho r hmem
      simp [keepsDuty, hh, ← hr, hne]

/-- A cycle of `env`, or a quiet one: without reset, the other owners off the pin table. -/
theorem runs_of_detached {s : State} (hw : s.cfg.wf = true) (hc : ControlInv s)
    (hd : ∀ c ∈ s.env, detached s.cfg c = true) : Runs s := by
  have hi : detached s.cfg (inputs s) = true := by
    unfold inputs
    split
    · rfl
    · next he => exact hd _ (by simp [he])
  cases hin : inputs s with
  | reset st => simp [hin, detached] at hi
  | run p os =>
    rw [hin] at hi
    refine ⟨hw, by simp [rstNow, hin], ?_⟩
    simp only [othersNow, hin]
    exact List.all_eq_true.2 fun e he => keepsDuty_of_offTable hc (List.all_eq_true.1 hi e he)

/-- What a preempted cycle keeps (R266). -/
theorem disturb_keeps (s : State) :
    let u := disturb s
    u.cfg = s.cfg ∧ u.nLeds = s.nLeds ∧ u.order = s.order ∧ u.bufValid = s.bufValid ∧ u.host = s.host ∧ u.env = s.env ∧
    u.glitched = true ∧ u.buf = s.buf ∧ u.bright = s.bright ∧ u.pinId = s.pinId ∧ u.pinHandle = s.pinHandle ∧
    u.pinMask = s.pinMask ∧ u.oe = s.oe ∧ u.executing = s.executing ∧ u.rsp = s.rsp :=
  disturbedStep_keeps _ _

/-- R7: no step writes a parameter; R90: every step uses up the inputs of its cycle. -/
theorem step_cfg_env {s t : State} (h : step s = .next t) : t.cfg = s.cfg ∧ t.env = s.env.tail := by
  cases step_cases h with
  | reset => exact ⟨rfl, rfl⟩
  | disturbed n =>
    obtain ⟨hcfg, -, -, -, -, henv, -⟩ := disturbedStep_keeps n (tick s)
    simp [hcfg, henv]
  | preempted =>
    obtain ⟨hcfg, -, -, -, -, henv, -⟩ := disturb_keeps (tick s)
    simp [hcfg, henv]
  | sequencer u _ hs _ _ hu =>
    obtain ⟨hcfg, -, -, -, -, henv, -⟩ := sequencerStep_keeps (s := tick s) hs hu
    simp [hcfg, henv]
  | busy => simp [release]
  | idle => simp
  | reserved => rw [occupy_eq]; simp
  | command w rest i u _ _ hx =>
    obtain ⟨hcfg, -, -, -, -, henv, -⟩ := exec_keeps hx
    rw [occupy_eq]
    simp [hcfg, henv]

end Sys2Proof.Machine
end

section
/-! PROOFS. Every program comes to its end (R16): a measure that every cycle of a program lowers, in lexicographic order what the
host has still to offer, whether a frame is in progress and can still be preempted, and the cycles the port is still busy. -/

namespace Sys2Proof.Machine

open Sys2Proof

/-- What a state of a program keeps: R45, the configuration, and an environment that does not stop it. -/
structure Programmed (s : State) : Prop where
  cfg_wf : s.cfg.wf = true
  control : ControlInv s
  env_detached : ∀ c ∈ s.env, detached s.cfg c = true

theorem Programmed.runs {s : State} (h : Programmed s) : Runs s := runs_of_detached h.cfg_wf h.control h.env_detached

theorem Programmed.step {s t : State} (h : Programmed s) (ht : step s = .next t) : Programmed t := by
  obtain ⟨hcfg, henv⟩ := step_cfg_env ht
  refine ⟨by rw [hcfg]; exact h.cfg_wf, controlInv_step h.control ht, fun c hc => ?_⟩
  rw [hcfg]
  exact h.env_detached c (List.mem_of_mem_tail (henv ▸ hc))

/-! ## The measure -/

/-- The cycles with the port ready that the host takes to offer its words (R17). -/
def hostWork (host : List Offer) : Nat := (host.map fun o => o.wait + 1).sum

/-- R266: 2 in a frame that can still be preempted, 1 in the disturbed rest of one, 0 outside a frame. -/
def frameStage (s : State) : Nat := if s.seq = .idle then 0 else if s.disturbed = none then 2 else 1

/-- The bits of the buffer still to be sent, the present one included (R33, R34). -/
def bitsLeft (s : State) : Nat := 8 * (nBytes s - s.bytePtr.toNat) + s.bitIdx.toNat

/-- The phases still to come before the gap ends, two for each bit (R134). -/
def phasesLeft (s : State) : Nat := 2 * bitsLeft s + if s.seq = .hi then 1 else 0

/-- A bound that every cycle of an undisturbed frame lowers: the phases still to come, then `CNT`, which is below `2 ^ 32`. -/
def frameWork (s : State) : Nat := phasesLeft s * 2 ^ 32 + s.cnt.toNat

/-- What is left of the frame, of its disturbed rest, or of the command in execution. -/
def portWork (s : State) : Nat :=
  if s.seq = .idle then (s.executing.map Executing.left).getD 0 else s.disturbed.getD (frameWork s)

/-- The measure, in lexicographic order. -/
def work (s : State) : Nat ×ₗ Nat ×ₗ Nat := toLex (hostWork s.host, toLex (frameStage s, portWork s))

theorem work_lt_of_host {s t : State} (h : hostWork t.host < hostWork s.host) : work t < work s :=
  Prod.Lex.toLex_lt_toLex.2 (.inl h)

theorem work_lt_of_stage {s t : State} (hh : t.host = s.host) (h : frameStage t < frameStage s) : work t < work s :=
  Prod.Lex.toLex_lt_toLex.2 (.inr ⟨by rw [hh], Prod.Lex.toLex_lt_toLex.2 (.inl h)⟩)

theorem work_lt_of_port {s t : State} (hh : t.host = s.host) (hs : frameStage t = frameStage s)
    (h : portWork t < portWork s) : work t < work s :=
  Prod.Lex.toLex_lt_toLex.2 (.inr ⟨by rw [hh], Prod.Lex.toLex_lt_toLex.2 (.inr ⟨hs, h⟩)⟩)

@[simp] theorem hostWork_cons (o : Offer) (rest : List Offer) : hostWork (o :: rest) = o.wait + 1 + hostWork rest := by
  simp [hostWork]

/-! ## What lowers it -/

/-- The end of a cycle writes nothing the measure speaks of. -/
theorem work_closeCycle (os : List GpioEvent) (s : State) : work (closeCycle os s) = work s := by
  obtain ⟨o, m, he⟩ := closeCycle_same os s
  rw [he]
  rfl

/-- R64, R65: the bit after the one just sent, or the end of the buffer, is nearer to the end. -/
theorem bitsLeft_nextBit {s t : State} {p i : Nat} (hs : s.bytePtr.toNat < nBytes s)
    (hn : nextBit s.bytePtr.toNat s.bitIdx.toNat = (p, i)) (hb : nBytes t = nBytes s)
    (hp : t.bytePtr = BitVec.ofNat 18 p) (hi : t.bitIdx = BitVec.ofNat 3 i) : bitsLeft t < bitsLeft s := by
  have h8 := s.bitIdx.isLt
  unfold bitsLeft
  rw [hb, hp, hi, toNat_ofNat_bytePtr (nextBit_le hs hn), BitVec.toNat_ofNat]
  unfold nextBit at hn
  split at hn <;> cases hn <;> omega

theorem frameWork_lt_of_phases {s t : State} (h : phasesLeft t < phasesLeft s) : frameWork t < frameWork s := by
  have := t.cnt.isLt
  unfold frameWork
  omega

/-- R136: an undisturbed frame comes nearer to its end with every cycle. -/
theorem frameWork_sequencerStep {s u : State} (h : FrameFacade s) (hu : sequencerStep s = .ok u) :
    u.seq = .idle ∨ frameWork u < frameWork s := by
  cases sequencerStep_cases h.seq_busy hu with
  | finish => exact .inl rfl
  | count _ hc =>
    have hcnt : (s.cnt - 1).toNat < s.cnt.toNat := by
      have h1 : (1 : BitVec 32).toNat = 1 := rfl
      rw [BitVec.toNat_sub_of_le (BitVec.le_def.2 (h1 ▸ hc.le)), h1]
      omega
    exact .inr (Nat.add_lt_add_left hcnt _)
  | low p m hq => exact .inr (frameWork_lt_of_phases (by simp [phasesLeft, bitsLeft, nBytes, lowStarted, hq]))
  | next p i hh m hq _ hn =>
    have hlt := bitsLeft_nextBit (t := nextBitStarted p i hh m s) (h.bytePtr_lt (.inr hq)) hn rfl rfl rfl
    exact .inr (frameWork_lt_of_phases (by unfold phasesLeft; split <;> omega))
  | gap p i hq _ hn =>
    have hlt := bitsLeft_nextBit (t := gapStarted p i s) (h.bytePtr_lt (.inr hq)) hn rfl rfl rfl
    exact .inr (frameWork_lt_of_phases (by unfold phasesLeft; split <;> omega))

theorem frameStage_of_idle {s : State} (hs : s.seq = .idle) : frameStage s = 0 := by simp [frameStage, hs]

theorem frameStage_of_undisturbed {s : State} (hs : s.seq ≠ .idle) (hd : s.disturbed = none) : frameStage s = 2 := by
  simp [frameStage, hs, hd]

theorem frameStage_of_disturbed {s : State} {n : Nat} (hs : s.seq ≠ .idle) (hd : s.disturbed = some n) :
    frameStage s = 1 := by
  simp [frameStage, hs, hd]

theorem disturbedStep_zero_seq (s : State) : (disturbedStep 0 s).seq = .idle := by simp [disturbedStep]

/-- R266: before its last cycle the disturbed rest of a frame goes on. -/
theorem disturbedStep_succ (k : Nat) (s : State) :
    (disturbedStep (k + 1) s).seq ≠ .idle ∧ (disturbedStep (k + 1) s).disturbed = some k :=
  ⟨(disturbedPosition_limits _ _).1, by simp [disturbedStep]⟩

theorem frameStage_disturbedStep (n : Nat) (s : State) : frameStage (disturbedStep n s) ≤ 1 := by
  cases n with
  | zero => simp [frameStage_of_idle (disturbedStep_zero_seq s)]
  | succ k => exact (frameStage_of_disturbed (disturbedStep_succ k s).1 (disturbedStep_succ k s).2).le

/-- R266: the disturbed rest of a frame comes nearer to its end with every cycle. -/
theorem work_disturbedStep {n : Nat} {s : State} (hs : s.seq ≠ .idle) (hd : s.disturbed = some n) :
    work (disturbedStep n s) < work s := by
  have hst := frameStage_of_disturbed hs hd
  obtain ⟨-, -, -, -, hhost, -⟩ := disturbedStep_keeps n s
  cases n with
  | zero => exact work_lt_of_stage hhost (by simp [hst, frameStage_of_idle (disturbedStep_zero_seq s)])
  | succ k =>
    obtain ⟨hq, hk⟩ := disturbedStep_succ k s
    exact work_lt_of_port hhost ((frameStage_of_disturbed hq hk).trans hst.symm) (by simp [portWork, hq, hk, hs, hd])

/-- R136: so does the undisturbed frame. -/
theorem work_sequencerStep {s u : State} (h : FrameFacade s) (hd : s.disturbed = none)
    (hu : sequencerStep s = .ok u) : work u < work s := by
  have hst := frameStage_of_undisturbed h.seq_busy hd
  obtain ⟨-, -, -, -, hhost, -, -, -, -, -, -, -, -, -, -, hdu⟩ := sequencerStep_keeps h.seq_busy hu
  by_cases hq : u.seq = .idle
  · exact work_lt_of_stage hhost (by simp [hst, frameStage_of_idle hq])
  · have hlt := (frameWork_sequencerStep h hu).resolve_left hq
    exact work_lt_of_port hhost ((frameStage_of_undisturbed hq (hdu.trans hd)).trans hst.symm)
      (by simpa [portWork, hq, h.seq_busy, hdu, hd] using hlt)

/-- R91: a command in execution comes nearer to its end. -/
theorem work_release {e : Executing} {s : State} (hs : s.seq = .idle) (he : s.executing = some e) (hpos : 1 ≤ e.left) :
    work (release e s) < work s := by
  refine work_lt_of_port rfl rfl ?_
  simp only [portWork, release, hs, he, if_true, Option.map_some, Option.getD_some]
  split
  · simp; omega
  · exact hpos

/-- R17: the host comes nearer to its next word in every ready cycle. -/
theorem hostWork_of_idle {s : State} {rest : List Offer} (h : hostActivity s = .idle rest) (hne : s.host ≠ []) :
    hostWork rest < hostWork s.host := by
  unfold hostActivity at h
  split at h
  · next hh => exact absurd hh hne
  · next o r hh =>
    split at h
    · cases h
    · cases h
      rw [hh]
      simp
      omega

theorem runOver_iff {s : State} :
    s.runOver = true ↔ s.host = [] ∧ rstNow s = false ∧ s.seq = .idle ∧ s.executing = none := by
  simp [State.runOver, cmdReady]
  tauto

/-- R91, R136, R266: every cycle of a program that is not over lowers the measure. -/
theorem work_step {s t : State} (hp : Programmed s) (ho : s.runOver ≠ true) (h : step s = .next t) :
    work t < work s := by
  have accepted {w : CmdWord} {rest : List Offer} (ha : Accepts s w rest) : hostWork rest < hostWork s.host := by
    simp [ha.offered]
  cases step_cases h with
  | reset st o _ hi => simpa [rstNow, hi] using hp.runs.no_reset
  | disturbed n _ hs hd =>
    rw [work_closeCycle]
    exact work_disturbedStep (s := tick s) hs hd
  | preempted _ hs hd =>
    obtain ⟨-, -, -, -, hhost, -⟩ := disturb_keeps (tick s)
    have hst := frameStage_of_undisturbed hs hd
    rw [work_closeCycle]
    exact work_lt_of_stage hhost (hst ▸ Nat.lt_succ_of_le (frameStage_disturbedStep _ _))
  | sequencer u _ hs hd _ hu =>
    rw [work_closeCycle]
    exact work_sequencerStep (s := tick s) ((facade_tick hp.control.facade).frame hs) hd hu
  | busy e _ hs he =>
    calc work (release e (closeCycle (othersNow s) (tick s)))
        < work (closeCycle (othersNow s) (tick s)) := work_release (by simp [hs]) (by simp [he]) (hp.control.busy_pos e he)
      _ = work s := work_closeCycle _ _
  | idle rest hr hs he ha =>
    have hne : s.host ≠ [] := fun hh => ho (runOver_iff.2 ⟨hh, hr.no_reset, hs, he⟩)
    exact work_lt_of_host (by simpa using hostWork_of_idle ha hne)
  | reserved w rest _ ha => exact work_lt_of_host (by rw [occupy_eq]; simpa using accepted ha)
  | command w rest i u ha _ hx =>
    obtain ⟨-, -, -, -, hhost, -⟩ := exec_keeps hx
    exact work_lt_of_host (by rw [occupy_eq]; simpa [hhost] using accepted ha)

/-! ## The end of a program -/

/-- A run of one cycle more starts with a step. -/
theorem run_succ_of_step {s t : State} (h : step s = .next t) (n : Nat) : core.run (n + 1) s = core.run n t := by
  have hs : core.step s = .next t := h
  simp only [Host.Core.run, hs]

/-- By induction on the measure: a state that is not over answers a next state, which keeps `Programmed` and is smaller. -/
theorem programmed_ends {s : State} (hp : Programmed s) : ∃ n t, core.run n s = .next t ∧ t.runOver = true := by
  induction hw : work s using WellFoundedLT.induction generalizing s with
  | ind _ ih =>
    subst hw
    by_cases ho : s.runOver = true
    · exact ⟨0, s, rfl, ho⟩
    · obtain ⟨t, ht⟩ := step_progress hp.runs hp.control
      obtain ⟨n, u, hrun, hu⟩ := ih _ (work_step hp ho ht) (hp.step ht) rfl
      exact ⟨n + 1, u, (run_succ_of_step ht n).trans hrun, hu⟩

/-- Settles O59, by induction on the measure `work`, which every cycle of a program that is not over lowers. -/
theorem everyProgramEnds : Obligations.EveryProgramEnds := fun _ hw hc hd => programmed_ends ⟨hw, hc, hd⟩

end Sys2Proof.Machine
end

section
/-! PROOFS. The statements of the scope: which configurations are well-formed and refused (R8), and the cycle that accepts a
command's word (R12). -/

namespace Sys2Proof.Machine

open Sys2Proof

/-- R7, R95: the bounds hold for the default and for every listed command. -/
theorem timings_wf_iff {c : Config} : (c.timingDefault.wf = true ∧ ∀ r ∈ c.timing, r.2.wf = true) ↔
    ∀ t : CmdTiming, t = c.timingDefault ∨ (∃ i, (i, t) ∈ c.timing) → t.wf = true := by
  constructor
  · rintro ⟨hd, hl⟩ t (rfl | ⟨i, hi⟩)
    · exact hd
    · exact hl _ hi
  · exact fun h => ⟨h _ (.inl rfl), fun r hr => h _ (.inr ⟨r.1, hr⟩)⟩

/-- Settles O7: the checks of `Config.wf` one by one, and the two refusals of the cycle. -/
theorem illFormedConfigurationRefused : Obligations.IllFormedConfigurationRefused := by
  refine ⟨fun c => ?_, fun _ => step_illFormed, fun s st hw hi ho => step_reset_illFormed hw hi (by rw [ho]; rfl),
    rfl, rfl, rfl, rfl, fun _ _ _ => rfl⟩
  rw [config_wf_iff, timings_wf_iff]
  simp only [profile_wf_iff, isOneHot_iff, timing_wf_iff, and_assoc]

/-- Settles O10: the equation of the accepting cycle, for a word that decodes to a command. -/
theorem stepRunsDecodedCommand : Obligations.StepRunsDecodedCommand := by
  intro s w rest i ha hd _
  rw [step_accept ha]
  simp only [acceptCycle, hd]
  cases exec i (taken rest s) <;> rfl

end Sys2Proof.Machine
end

section
/-! PROOFS. The statements of the state (10_state.md, R45): who writes the configuration, the buffer, the brightness and `PIN_ID`
(R23), and the invariants of the buffer and the brightness, which follow. -/

namespace Sys2Proof.Machine

open Sys2Proof

/-- Settles O54, by the agreement of the facade's part and the port's part, kept by every kind of cycle. -/
theorem stepKeepsControlInvariant : Obligations.StepKeepsControlInvariant := fun _ _ => controlInv_step

/-! ## Who writes the data -/

/-- `t` has the parameters, the configuration, the buffer, the brightness and the pin id of `s`. -/
structure SameData (s t : State) : Prop where
  cfg : t.cfg = s.cfg
  nLeds : t.nLeds = s.nLeds
  order : t.order = s.order
  bufValid : t.bufValid = s.bufValid
  buf : t.buf = s.buf
  bright : t.bright = s.bright
  pinId : t.pinId = s.pinId

theorem SameData.closeCycle {s u : State} (os : List GpioEvent) (h : SameData s u) :
    SameData s (Machine.closeCycle os u) := by
  obtain ⟨o, m, he⟩ := closeCycle_same os u
  rw [he]
  exact { h with }

theorem SameData.occupy {s u : State} (c : Option Instr) (h : SameData s u) : SameData s (Machine.occupy c u) := by
  rw [occupy_eq]
  exact { h with }

theorem sameData_taken (rest : List Offer) (s : State) : SameData s (taken rest s) := by constructor <;> rfl

theorem sameData_tick (s : State) : SameData s (tick s) := by constructor <;> rfl

theorem sameData_disturbedStep (n : Nat) (s : State) : SameData s (disturbedStep n s) := by
  obtain ⟨hc, hn, ho, hv, -, -, -, hb, hr, hp, -⟩ := disturbedStep_keeps n s
  exact ⟨hc, hn, ho, hv, hb, hr, hp⟩

theorem sameData_sequencerStep {s u : State} (hs : s.seq ≠ .idle) (hu : sequencerStep s = .ok u) : SameData s u := by
  obtain ⟨hc, hn, ho, hv, -, -, -, hb, hr, hp, -⟩ := sequencerStep_keeps hs hu
  exact ⟨hc, hn, ho, hv, hb, hr, hp⟩

/-- The ways a step can treat the data (R23): it resets them, keeps them, or leaves what an accepted command makes of them. -/
inductive DataCase (s t : State) : Prop where
  | reset (st : Straps) (o : ChannelOrder) : inputs s = .reset st → t = resetState st o s → DataCase s t
  | kept : SameData s t → DataCase s t
  | command (w : CmdWord) (rest : List Offer) (i : Instr) (u : State) : Accepts s w rest → decode w = .command i →
      exec i (taken rest s) = .next u → SameData u t → DataCase s t

/-- R23: neither a frame nor a busy port nor a reserved word touches the data. -/
theorem step_dataCase {s t : State} (h : step s = .next t) : DataCase s t := by
  cases step_cases h with
  | reset st o _ hi => exact .reset st o hi rfl
  | disturbed n => exact .kept (.closeCycle _ { sameData_disturbedStep n (tick s) with })
  | preempted => exact .kept (.closeCycle _ { sameData_disturbedStep _ { tick s with glitched := true, draws := _ } with })
  | sequencer u _ hs _ _ hu => exact .kept (.closeCycle _ { sameData_sequencerStep (s := tick s) hs hu with })
  | busy e => exact .kept { (sameData_tick s).closeCycle (othersNow s) with }
  | idle rest => exact .kept (.closeCycle _ (sameData_taken rest s))
  | reserved w rest => exact .kept (.closeCycle _ (.occupy _ (sameData_taken rest s)))
  | command w rest i u ha hd hx => exact .command w rest i u ha hd hx (.closeCycle _ (.occupy _ (by constructor <;> rfl)))

theorem not_reset_of_rstNow {s : State} {st : Straps} (hr : rstNow s = false) : inputs s ≠ .reset st := by
  intro hi
  simp [rstNow, hi] at hr

/-- R26: what SETBRT can leave in `BRIGHT`. -/
theorem exec_setBrt_bright {l : Byte} {s u : State} (h : exec (.setBrt l) s = .next u) :
    u.bright = newStored l ∨ u.bright = s.bright := by
  rw [exec_eq_resultOf _ _ (by simp)] at h
  cases h
  simp only [resultOf]
  split
  · exact .inl rfl
  · exact .inr rfl

/-- R30: what SETPIN can leave in `PIN_ID`. -/
theorem exec_setPin_pinId {p : PinId} {s u : State} (h : exec (.setPin p) s = .next u) :
    u.pinId = p ∨ u.pinId = s.pinId := by
  rw [exec_eq_resultOf _ _ (by simp)] at h
  cases h
  simp only [resultOf]
  split
  · exact .inr rfl
  · split <;> exact .inl rfl

/-- Settles O51: reset alone writes the configuration, and no command does. -/
theorem configurationConstant : Obligations.ConfigurationConstant := by
  intro s t h
  cases step_dataCase h with
  | reset st o hi ht => exact ⟨ht ▸ rfl, fun hr => absurd hi (not_reset_of_rstNow hr)⟩
  | kept hd => exact ⟨hd.cfg, fun _ => ⟨hd.nLeds, hd.order, hd.bufValid⟩⟩
  | command w rest i u _ _ hx hd =>
    obtain ⟨hc, hn, ho, hv, -⟩ := exec_keeps hx
    exact ⟨hd.cfg.trans hc, fun _ => ⟨hd.nLeds.trans hn, hd.order.trans ho, hd.bufValid.trans hv⟩⟩

/-- Settles O52: a command that is none of the three keeps the buffer. -/
theorem onlyMutatorsChangeBuffer : Obligations.OnlyMutatorsChangeBuffer := by
  intro s t a hr h hne
  cases step_dataCase h with
  | reset st o hi => exact absurd hi (not_reset_of_rstNow hr)
  | kept hd => exact absurd (by rw [hd.buf]) hne
  | command w rest i u ha hw hx hd =>
    obtain ⟨-, -, -, -, -, -, -, -, hbuf, -⟩ := exec_keeps hx
    refine ⟨w, rest, ha, ?_⟩
    by_contra hno
    simp only [hw, not_or, not_exists, Decoded.command.injEq] at hno
    obtain ⟨h3, hp, hb⟩ := hno
    exact hne (by rw [hd.buf, hbuf h3 hp hb]; rfl)

/-- Settles O53: a command other than SETBRT keeps `BRIGHT`, one other than SETPIN keeps `PIN_ID`. -/
theorem onlySetBrtAndSetPinWriteTheirRegisters : Obligations.OnlySetBrtAndSetPinWriteTheirRegisters := by
  intro s t hr h
  cases step_dataCase h with
  | reset st o hi => exact absurd hi (not_reset_of_rstNow hr)
  | kept hd => exact ⟨fun hne => absurd hd.bright hne, fun hne => absurd hd.pinId hne⟩
  | command w rest i u ha hw hx hd =>
    obtain ⟨-, -, -, -, -, -, -, -, -, hbright, hpin⟩ := exec_keeps hx
    rw [hd.bright, hd.pinId]
    constructor
    · intro hne
      obtain ⟨l, rfl⟩ : ∃ l, i = .setBrt l := by
        by_contra hno
        exact hne (hbright (not_exists.1 hno))
      have hb : u.bright = newStored l := (exec_setBrt_bright hx).resolve_right hne
      rw [hb]
      exact ⟨newStored_ne_zero l, w, rest, l, ha, hw, newStored_toNat l⟩
    · intro hne
      obtain ⟨p, rfl⟩ : ∃ p, i = .setPin p := by
        by_contra hno
        exact hne (hpin (not_exists.1 hno))
      exact ⟨w, rest, p, ha, hw, (exec_setPin_pinId hx).resolve_right hne⟩

/-! ## The buffer -/

theorem BufferInv.congr {s t : State} (h : BufferInv s) (hd : SameData s t) : BufferInv t where
  inert := by rw [hd.bufValid, hd.nLeds]; exact h.inert
  canonical := by rw [hd.buf]; exact h.canonical
  in_range := by simpa only [hd.buf, nBytes, hd.nLeds] using h.in_range

theorem bufferInv_initial (c : Config) (st : Straps) (o : ChannelOrder) : BufferInv (State.initial c st o) where
  inert := fun hv => if_neg (by simpa [State.initial] using hv)
  canonical := rfl
  in_range := fun _ hc => nomatch hc

/-- R172: a pixel in range is written inside the buffer. -/
theorem bufferInv_bufWithPixel {s : State} {i : PixIndex} (r g b : Byte) (h : BufferInv s)
    (hi : pixelInRange s i = true) : BufferInv { s with buf := bufWithPixel s i r g b } where
  inert := h.inert
  canonical := memory_wf_bufSet _ _ (memory_wf_bufSet _ _ (memory_wf_bufSet _ _ h.canonical))
  in_range := by
    intro c hc
    show c.1 < nBytes s
    rcases mem_bufSet hc with hb | hc
    · exact hb ▸ base_add_lt hi (bOff_lt _)
    rcases mem_bufSet hc with hg | hc
    · exact hg ▸ base_add_lt hi (gOff_lt _)
    rcases mem_bufSet hc with hr | hc
    · exact hr ▸ base_add_lt hi (rOff_lt _)
    · exact h.in_range c hc

/-- R205: the pass of SETBRT writes inside the buffer. -/
theorem bufferInv_mapBytes {s : State} (f : Byte → Byte) (new : BitVec 9) (h : BufferInv s) :
    BufferInv { s with buf := mapBytes f (nBytes s) s.buf, bright := new } where
  inert := h.inert
  canonical := memory_wf_mapBytes f _ h.canonical
  in_range := fun c hc => (mem_mapBytes hc).elim id (h.in_range c)

theorem bufferInv_exec {i : Instr} {s u : State} (h : BufferInv s) (hx : exec i s = .next u) : BufferInv u := by
  cases exec_cases hx with
  | ignored => exact h
  | empty | frame => exact { h with }
  | result hi =>
    cases i with
    | showFrame => exact absurd rfl hi
    | beginBind => simp only [resultOf]; split <;> exact { h with }
    | setPin => simp only [resultOf]; split <;> [exact h; (split <;> exact { h with })]
    | setPix3 | setPixP =>
      simp only [resultOf]
      split
      · next hr => exact bufferInv_bufWithPixel _ _ _ h hr
      · exact h
    | setBrt =>
      simp only [resultOf]
      split
      · exact bufferInv_mapBytes _ _ h
      · exact h
    | endBind | getPix | numPix | color => exact { h with }

/-- Settles O55: reset empties the buffer, and a command writes it inside its addresses. -/
theorem stepKeepsBufferInvariant : Obligations.StepKeepsBufferInvariant := by
  intro s t hs h
  cases step_dataCase h with
  | reset st o _ ht => exact ht ▸ { bufferInv_initial s.cfg st o with }
  | kept hd => exact hs.congr hd
  | command w rest i u _ _ hx hd => exact (bufferInv_exec (hs.congr (sameData_taken rest s)) hx).congr hd

/-! ## The brightness -/

theorem BrightnessInv.congr {s t : State} (h : BrightnessInv s) (hd : SameData s t) : BrightnessInv t where
  bright_le := by rw [hd.bright]; exact h.bright_le
  byte_le := by simpa only [hd.bright, hd.buf, nBytes, hd.nLeds] using h.byte_le

theorem brightnessInv_initial (c : Config) (st : Straps) (o : ChannelOrder) :
    BrightnessInv (State.initial c st o) where
  bright_le := Nat.zero_le 256
  byte_le := fun hb => absurd rfl hb

/-- R171: away from the sentinel a scaled byte is within what the brightness allows. -/
theorem scaleW_le {bright : BitVec 9} (hb : bright ≠ 0) (c : Byte) :
    (scaleW bright c).toNat ≤ (255 * bright.toNat) >>> 8 := by
  have hc : c.toNat ≤ 255 := Nat.le_of_lt_succ c.isLt
  rw [scaleW, if_neg hb, BitVec.toNat_ofNat]
  calc (c.toNat * bright.toNat) >>> 8 % 2 ^ 8
      ≤ (c.toNat * bright.toNat) >>> 8 := Nat.mod_le _ _
    _ ≤ (255 * bright.toNat) >>> 8 := by
      simp only [Nat.shiftRight_eq_div_pow]
      exact Nat.div_le_div_right (Nat.mul_le_mul_right _ hc)

/-- R203, R209: a byte within what the old brightness allows, times the scale factor, is at most `255 * new`. -/
theorem mul_rescaleFactor_le {new old : BitVec 9} {x : Nat} (hx : x ≤ (255 * old.toNat) >>> 8) :
    x * rescaleFactor new old ≤ 255 * new.toNat := by
  unfold rescaleFactor
  split
  · simp
  · rw [Nat.shiftRight_eq_div_pow] at hx
    simp only [Nat.shiftLeft_eq]
    have hq : (new.toNat * 2 ^ 8 - 1) / old.toNat * old.toNat ≤ new.toNat * 2 ^ 8 :=
      (Nat.div_mul_le_self _ _).trans (Nat.sub_le _ _)
    generalize (new.toNat * 2 ^ 8 - 1) / old.toNat = q at hq ⊢
    have hx' : x * 2 ^ 8 ≤ 255 * old.toNat := (Nat.le_div_iff_mul_le (by decide)).1 hx
    nlinarith

/-- R204, R209: the rescaled byte is within what the new brightness allows. -/
theorem rescaleByte_le {new old : BitVec 9} {x : Byte} (hx : old ≠ 0 → x.toNat ≤ (255 * old.toNat) >>> 8) :
    (rescaleByte (rescaleFactor new old) x).toNat ≤ (255 * new.toNat) >>> 8 := by
  have hm : x.toNat * rescaleFactor new old ≤ 255 * new.toNat := by
    by_cases ho : old = 0
    · simp [rescaleFactor, ho]
    · exact mul_rescaleFactor_le (hx ho)
  rw [rescaleByte, BitVec.toNat_ofNat]
  simp only [Nat.shiftRight_eq_div_pow]
  exact (Nat.mod_le _ _).trans (Nat.div_le_div_right hm)

/-- R172: a byte of the buffer with a pixel written is a scaled byte or the byte that was there. -/
theorem bufGet_bufWithPixel_of_scaled {P : Byte → Prop} {s : State} {a : Nat} (i : PixIndex) (r g b : Byte)
    (hs : ∀ c, P (scaleW s.bright c)) (ha : P (bufGet s.buf a)) : P (bufGet (bufWithPixel s i r g b) a) := by
  simp only [bufWithPixel, bufGet_bufSet]
  split
  · exact hs b
  · split
    · exact hs g
    · split
      · exact hs r
      · exact ha

theorem brightnessInv_bufWithPixel {s : State} (i : PixIndex) (r g b : Byte) (h : BrightnessInv s) :
    BrightnessInv { s with buf := bufWithPixel s i r g b } where
  bright_le := h.bright_le
  byte_le := fun hb a ha =>
    bufGet_bufWithPixel_of_scaled (P := fun x => x.toNat ≤ (255 * s.bright.toNat) >>> 8) i r g b (scaleW_le hb)
      (h.byte_le hb a ha)

/-- R209: the pass of SETBRT brings every byte within what the new brightness allows. -/
theorem brightnessInv_rescale {s : State} (l : Byte) (h : BrightnessInv s) :
    BrightnessInv { s with
      buf := mapBytes (rescaleByte (rescaleFactor (newStored l) s.bright)) (nBytes s) s.buf, bright := newStored l } where
  bright_le := by
    show (newStored l).toNat ≤ 256
    rw [newStored_toNat]
    exact l.isLt
  byte_le := by
    intro _ a ha
    have ha : a < nBytes s := ha
    simp only [bufGet_mapBytes, if_pos ha]
    exact rescaleByte_le fun ho => h.byte_le ho a ha

theorem brightnessInv_exec {i : Instr} {s u : State} (h : BrightnessInv s) (hx : exec i s = .next u) :
    BrightnessInv u := by
  cases exec_cases hx with
  | ignored => exact h
  | empty | frame => exact { h with }
  | result hi =>
    cases i with
    | showFrame => exact absurd rfl hi
    | beginBind => simp only [resultOf]; split <;> exact { h with }
    | setPin => simp only [resultOf]; split <;> [exact h; (split <;> exact { h with })]
    | setPix3 | setPixP =>
      simp only [resultOf]
      split
      · exact brightnessInv_bufWithPixel _ _ _ _ h
      · exact h
    | setBrt l =>
      simp only [resultOf]
      split
      · exact brightnessInv_rescale l h
      · exact h
    | endBind | getPix | numPix | color => exact { h with }

/-- Settles O56: a byte is written scaled (R171) or rescaled (R203, R204) to the brightness that stands after the step. -/
theorem stepKeepsBrightnessInvariant : Obligations.StepKeepsBrightnessInvariant := by
  intro s t hs h
  cases step_dataCase h with
  | reset st o _ ht => exact ht ▸ { brightnessInv_initial s.cfg st o with }
  | kept hd => exact hs.congr hd
  | command w rest i u _ _ hx hd => exact (brightnessInv_exec (hs.congr (sameData_taken rest s)) hx).congr hd

/-! ## GLITCHED and the wire -/

/-- Settles O47: a preempted cycle of a frame alone writes `GLITCHED`. -/
theorem glitchedIsSticky : Obligations.GlitchedIsSticky := by
  intro s t hr h
  have kept (hg : t.glitched = s.glitched) : (s.glitched = true → t.glitched = true) ∧
      (s.glitched = false → t.glitched = true → preemptNow s = true ∧ s.seq ≠ .idle) :=
    ⟨hg.trans, fun h0 h1 => by simp [hg, h0] at h1⟩
  cases step_cases h with
  | reset st o _ hi => exact absurd hi (not_reset_of_rstNow hr)
  | disturbed n =>
    obtain ⟨-, -, -, -, -, -, hg, -⟩ := disturbedStep_keeps n (tick s)
    exact kept (by simp [hg])
  | preempted _ hs _ hp =>
    obtain ⟨-, -, -, -, -, -, hg, -⟩ := disturb_keeps (tick s)
    exact ⟨fun _ => by simp [hg], fun _ _ => ⟨hp, hs⟩⟩
  | sequencer u _ hs _ _ hu =>
    obtain ⟨-, -, -, -, -, -, hg, -⟩ := sequencerStep_keeps (s := tick s) hs hu
    exact kept (by simp [hg])
  | busy => exact kept (by simp [release])
  | idle => exact kept (by simp)
  | reserved => exact kept (by rw [occupy_eq]; simp)
  | command w rest i u _ _ hx =>
    obtain ⟨-, -, -, -, -, -, hg, -⟩ := exec_keeps hx
    exact kept (by rw [occupy_eq]; simp [hg])

/-- Settles O50: outside a frame `OE` is 0 in `Unbound` only, and `LINE` is 0. -/
theorem wireIdleLevel : Obligations.WireIdleLevel := by
  intro s hc hg hs
  have hi := hc.idle hs
  refine ⟨fun hp => by simp [wire, hp], fun hp hf => ?_, fun hp hf => ?_⟩
  · have hoe : s.oe = false := Bool.eq_false_iff.2 fun h => hi.oe_iff.1 h hf
    simp [wire, hp, hg, hs, hoe]
  · have hoe : s.oe = true := hi.oe_iff.2 (by simp [hf])
    simp [wire, hp, hg, hs, hoe, hi.line_low]

/-! ## Fixed states -/

/-- Settles O8, by evaluation of the one state. -/
theorem stateResetIsReady : Obligations.StateResetIsReady := by
  unfold Obligations.StateResetIsReady
  refine ⟨rfl, ?_⟩
  decide

/-- Settles O40: the arm of SHOW that reads the binding. -/
theorem showWithoutBindingFaults : Obligations.ShowWithoutBindingFaults := by
  intro s hf hv hn hb
  rcases execShow_cases s with ⟨hno | hno, -⟩ | ⟨-, -, h0, -⟩ | ⟨-, -, -, ⟨h, m, hh, hm, -⟩ | ⟨-, hx⟩⟩
  · exact absurd hf hno
  · simp [hv] at hno
  · exact absurd h0 hn
  · simp [hh, hm] at hb
  · exact hx

end Sys2Proof.Machine
end

section
/-! PROOFS. The bound pin (R36, R37, R262 to R264): what a cycle calls for it, and what the other owners' events, which keep
R264, then leave of the level of its bit and of its mode. -/

namespace Sys2Proof.Machine

open Sys2Proof

/-! ## What a cycle calls for the bound pin -/

/-- If `u` is bound, so was `s`, with the same pin and the same GPIO space; no event takes effect in `u` yet. -/
structure SamePin (s u : State) : Prop where
  bound_before : u.fsm ≠ .unbound → s.fsm ≠ .unbound
  pinId : u.pinId = s.pinId
  pinHandle : u.pinHandle = s.pinHandle
  pinMask : u.pinMask = s.pinMask
  out : u.out = s.out
  mode : u.mode = s.mode
  no_event : u.gpioEv = none

/-- `PIN_HANDLE` and `PIN_MASK` are `h` and `m`. -/
def BoundTo (h : Handle) (m : PortValue) (s : State) : Prop := s.pinHandle = some h ∧ s.pinMask = some m

/-- The ways a cycle without reset and without disturbance can treat the bound pin before its event is issued: it is released, it
is left alone, its line is driven low or high (R131, R134), it is bound (R222), another is bound (R226). -/
inductive PinCase (s u : State) : Prop where
  | released : u.fsm = .unbound → PinCase s u
  | kept : SamePin s u → u.gpioPending = s.gpioPending → u.line = s.line → PinCase s u
  | low (h : Handle) (m : PortValue) : SamePin s u → BoundTo h m u → s.gpioPending = [] →
      u.gpioPending = [.clr h m] → u.line = false → PinCase s u
  | high (h : Handle) (m : PortValue) : SamePin s u → BoundTo h m u → s.gpioPending = [] →
      u.gpioPending = [.set h m] → u.line = true → PinCase s u
  | bound (h : Handle) (m : PortValue) : u.pinId = s.pinId → u.mode = s.mode → BoundTo h m u →
      u.gpioPending = [.mode s.pinId .output, .clr h m] → u.line = false → PinCase s u
  | rebound (p : PinId) (h : Handle) (m : PortValue) : u.pinId = p → BoundTo h m u →
      u.gpioPending = [.mode s.pinId .input, .mode p .output, .clr h m] → u.line = false → PinCase s u

theorem samePin_tick (s : State) : SamePin s (tick s) := ⟨id, rfl, rfl, rfl, rfl, rfl, rfl⟩

theorem samePin_taken (rest : List Offer) (s : State) : SamePin s (taken rest s) := ⟨id, rfl, rfl, rfl, rfl, rfl, rfl⟩

theorem pinCase_occupy {s u : State} (c : Option Instr) (h : PinCase s u) : PinCase s (occupy c u) := by
  rw [occupy_eq]
  cases h with
  | released hf => exact .released hf
  | kept hs hp hl => exact .kept { hs with } hp hl
  | low h m hs hb h0 hp hl => exact .low h m { hs with } hb h0 hp hl
  | high h m hs hb h0 hp hl => exact .high h m { hs with } hb h0 hp hl
  | bound h m hi hm hb hp hl => exact .bound h m hi hm hb hp hl
  | rebound p h m hi hb hp hl => exact .rebound p h m hi hb hp hl

/-- R134: an undisturbed cycle of a frame. -/
theorem pinCase_sequencerStep {s u : State} (hs : s.seq ≠ .idle) (hf : s.fsm = .transmitting) (hp : s.gpioPending = [])
    (hu : sequencerStep (tick s) = .ok u) : PinCase s u := by
  cases sequencerStep_cases (s := tick s) hs hu with
  | count | gap => exact .kept { samePin_tick s with } rfl rfl
  | finish => exact .kept { samePin_tick s with bound_before := by simp [hf] } rfl rfl
  | low h m _ _ _ hh hm => exact .low h m { samePin_tick s with } ⟨hh, hm⟩ hp (by simp [lowStarted, hp]) rfl
  | next p i h m _ _ _ _ hh hm => exact .high h m { samePin_tick s with } ⟨hh, hm⟩ hp (by simp [nextBitStarted, hp]) rfl

/-- R131, R222, R224, R226: an accepted command. -/
theorem pinCase_exec {i : Instr} {rest : List Offer} {s u : State} (hi : s.fsm ≠ .transmitting)
    (hp : s.gpioPending = []) (hx : exec i (taken rest s) = .next u) : PinCase s u := by
  have same := samePin_taken rest s
  cases exec_cases hx with
  | ignored => exact .kept same rfl rfl
  | empty _ hf =>
    have hf : s.fsm = .ready := hf
    exact .kept { same with bound_before := by simp [hf] } rfl rfl
  | frame h m _ hf _ _ hh hm =>
    have hf : s.fsm = .ready := hf
    exact .high h m { same with bound_before := by simp [hf] } ⟨hh, hm⟩ hp (by simp [frameStart, hp]) rfl
  | result hne =>
    cases i with
    | showFrame => exact absurd rfl hne
    | endBind => exact .released rfl
    | beginBind =>
      simp only [resultOf]
      split
      · exact .kept same rfl rfl
      · next h m _ => exact .bound h m rfl rfl ⟨rfl, rfl⟩ (by simp [hp]) rfl
    | setPin p =>
      simp only [resultOf]
      split
      · exact .kept same rfl rfl
      · next h m _ =>
        split
        · exact .rebound p h m rfl ⟨rfl, rfl⟩ (by simp [hp]) rfl
        · next hr =>
          refine .released ?_
          simp only [taken_fsm] at hr ⊢
          cases hf : s.fsm <;> simp_all
    | setPix3 | setPixP | setBrt =>
      simp only [resultOf]
      split
      · exact .kept { same with } rfl rfl
      · exact .kept same rfl rfl
    | getPix | numPix | color => exact .kept { same with } rfl rfl

/-- Everything a step can do with the bound pin that it leaves, in a run without a disturbed frame. -/
theorem step_pinCase {s t : State} (hc : ControlInv s) (h : step s = .next t) (hg : t.glitched = false)
    (hf : t.fsm ≠ .unbound) : Runs s ∧ s.glitched = false ∧ ∃ u, PinCase s u ∧
      (t = closeCycle (othersNow s) u ∨ ∃ e, t = release e (closeCycle (othersNow s) u)) := by
  have before (hr : Runs s) : s.glitched = false :=
    Bool.eq_false_iff.2 fun hs => by simpa [hg] using (glitchedIsSticky s t hr.no_reset h).1 hs
  cases step_cases h with
  | reset => exact absurd rfl hf
  | disturbed n hr _ hd => exact absurd (before hr) (by simp [(hc.disturbed_frame (by simp [hd])).2])
  | preempted =>
    obtain ⟨-, -, -, -, -, -, hgl, -⟩ := disturb_keeps (tick s)
    simp [hgl] at hg
  | sequencer u hr hs _ _ hu =>
    exact ⟨hr, before hr, u,
      pinCase_sequencerStep hs (hc.frame hs).transmitting (hc.events_out (hc.frame_port hs)) hu, .inl rfl⟩
  | busy e hr => exact ⟨hr, before hr, tick s, .kept (samePin_tick s) rfl rfl, .inr ⟨e, rfl⟩⟩
  | idle rest hr => exact ⟨hr, before hr, _, .kept (samePin_taken rest s) rfl rfl, .inl rfl⟩
  | reserved w rest _ ha =>
    exact ⟨ha.runs, before ha.runs, _, pinCase_occupy _ (.kept (samePin_taken rest s) rfl rfl), .inl rfl⟩
  | command w rest i u ha _ hx =>
    exact ⟨ha.runs, before ha.runs, _, pinCase_occupy _ (pinCase_exec (hc.idle ha.seq_idle).not_transmitting
      (hc.events_out ha.not_executing) hx), .inl rfl⟩

/-! ## The level of the bound bit -/

/-- No event of the list writes the bit `m` of `OUT[h]`. -/
def Untouched (h : Handle) (m : PortValue) (es : List GpioEvent) : Prop := ∀ e ∈ es, touches h m e = false

/-- R264: while the pin is bound, the other owners do not write its bit. -/
theorem untouched_of_duty {s : State} {es : List GpioEvent} {h : Handle} {m : PortValue}
    (hd : es.all (keepsDuty s) = true) (hf : s.fsm ≠ .unbound) (hb : BoundTo h m s) : Untouched h m es := by
  obtain ⟨hh, hm⟩ := hb
  intro e he
  have hk := List.all_eq_true.1 hd e he
  cases e with
  | mode p d => rfl
  | set k n | clr k n =>
    by_cases hkh : k = h
    · subst hkh
      have hquiet : s.crit = false ∧ n &&& m = 0 := by simpa [keepsDuty, hh, hm, hf] using hk
      simp [touches, hquiet.2]
    · simp [touches, hkh]

theorem touches_of_clash {h : Handle} {m : PortValue} {own e : GpioEvent} (ho : own = .set h m ∨ own = .clr h m)
    (hc : gpioClash own e = true) : touches h m e = true := by
  cases e with
  | mode p d => rcases ho with rfl | rfl <;> simp [gpioClash] at hc
  | set k n | clr k n =>
    obtain ⟨rfl, hmn⟩ : h = k ∧ m &&& n ≠ 0 := by rcases ho with rfl | rfl <;> simpa [gpioClash] using hc
    simpa [touches, Nat.and_comm n m] using hmn

/-- R263, R264: with the block's own event off the bit or driving exactly it, the other owners' events leave it. -/
theorem outBit_foldl_applyOther {es : List GpioEvent} {s : State} {h : Handle} {m : PortValue}
    (hes : Untouched h m es)
    (ho : ∀ own, s.gpioEv = some own → touches h m own = false ∨ own = .set h m ∨ own = .clr h m) :
    outBit (es.foldl applyOther s).out h m = outBit s.out h m := by
  induction es generalizing s with
  | nil => rfl
  | cons e es ih =>
    have hev : (applyOther s e).gpioEv = s.gpioEv := by rw [(applyOther_same s e).eq]
    have he : touches h m e = false := hes e (by simp)
    rw [List.foldl_cons, ih (fun x hx => hes x (by simp [hx])) (by rwa [hev])]
    refine outBit_applyOther s e h m he fun own hown hcl => ?_
    refine (ho own hown).resolve_right fun hdr => ?_
    simp [touches_of_clash hdr hcl] at he

theorem closeCycle_of_nil {os : List GpioEvent} {s : State} (hp : s.gpioPending = []) :
    closeCycle os s = os.foldl applyOther s := by
  simp [closeCycle, issueGpio, hp]

theorem closeCycle_of_cons {os : List GpioEvent} {s : State} {e : GpioEvent} {es : List GpioEvent}
    (hp : s.gpioPending = e :: es) :
    closeCycle os s = os.foldl applyOther (applyGpio e { s with gpioPending := es, gpioEv := some e }) := by
  simp [closeCycle, issueGpio, hp]

/-- R43: without an event of the block the bit keeps its level. -/
theorem outBit_closeCycle_quiet {os : List GpioEvent} {u : State} {h : Handle} {m : PortValue}
    (ho : Untouched h m os) (hp : u.gpioPending = []) (he : u.gpioEv = none) :
    outBit (closeCycle os u).out h m = outBit u.out h m := by
  rw [closeCycle_of_nil hp, outBit_foldl_applyOther ho (by simp [he])]

/-- R263: the event that drives the bit gives it its level. -/
theorem outBit_closeCycle_event {os : List GpioEvent} {u : State} {h : Handle} {m : PortValue} {e : GpioEvent}
    (ho : Untouched h m os) (hp : u.gpioPending = [e]) (he : e = .set h m ∨ e = .clr h m) :
    outBit (closeCycle os u).out h m =
      outBit (applyGpio e { u with gpioPending := [], gpioEv := some e }).out h m := by
  rw [closeCycle_of_cons hp, outBit_foldl_applyOther ho]
  intro own hown
  rw [(applyGpio_same _ _).eq] at hown
  cases hown
  exact .inr he

/-- What R36 says of the line and the bit of a bound pin. -/
structure LineFollows (h : Handle) (m : PortValue) (s : State) : Prop where
  settled : s.gpioPending = [] → outBit s.out h m = some s.line
  settling : s.gpioPending ≠ [] → s.line = false ∧ s.gpioPending.getLast? = some (.clr h m)

theorem PinLevelInv.lineFollows {s : State} {h : Handle} {m : PortValue} (hl : PinLevelInv s)
    (hg : s.glitched = false) (hf : s.fsm ≠ .unbound) (hb : BoundTo h m s) : LineFollows h m s where
  settled := fun hp => hl.settled hg hf hp h m hb.1 hb.2
  settling := fun hp => ⟨(hl.settling hg hf hp).1, (hl.settling hg hf hp).2 h m hb.1 hb.2⟩

theorem pinLevelInv_of_lineFollows {s : State} {h : Handle} {m : PortValue} (hb : BoundTo h m s)
    (hl : LineFollows h m s) : PinLevelInv s where
  settled := fun _ _ hp h' m' hh hm => by
    cases hb.1.symm.trans hh
    cases hb.2.symm.trans hm
    exact hl.settled hp
  settling := fun _ _ hp => ⟨(hl.settling hp).1, fun h' m' hh hm => by
    cases hb.1.symm.trans hh
    cases hb.2.symm.trans hm
    exact (hl.settling hp).2⟩

/-- R36: after the clear that ends a list of events, or before it, the line is low. -/
theorem lineFollows_closeCycle_clr {os es : List GpioEvent} {u : State} {h : Handle} {m : PortValue}
    (hp : u.gpioPending = es ++ [.clr h m]) (hl : u.line = false) (ho : es = [] → Untouched h m os) :
    LineFollows h m (closeCycle os u) := by
  cases es with
  | nil => exact {
      settled := fun _ => by rw [outBit_closeCycle_event (ho rfl) hp (.inr rfl), outBit_clr]; simp [hl]
      settling := by simp [hp] }
  | cons e es => exact { settled := by simp [hp], settling := by simp [hp, hl] }

/-- R36: the set that starts a high phase raises the bit with the line. -/
theorem lineFollows_closeCycle_set {os : List GpioEvent} {u : State} {h : Handle} {m : PortValue} (hm : m ≠ 0)
    (hp : u.gpioPending = [.set h m]) (hl : u.line = true) (ho : Untouched h m os) :
    LineFollows h m (closeCycle os u) where
  settled := fun _ => by rw [outBit_closeCycle_event ho hp (.inl rfl), outBit_set _ h m hm]; simp [hl]
  settling := by simp [hp]

/-- R36: a cycle that leaves the line alone, settled or settling. -/
theorem lineFollows_closeCycle_kept {os : List GpioEvent} {s u : State} {h : Handle} {m : PortValue}
    (hs : LineFollows h m s) (hu : SamePin s u) (hp : u.gpioPending = s.gpioPending) (hl : u.line = s.line)
    (ho : Untouched h m os) : LineFollows h m (closeCycle os u) := by
  by_cases hn : s.gpioPending = []
  · have hpu : u.gpioPending = [] := hp.trans hn
    exact {
      settled := fun _ => by rw [outBit_closeCycle_quiet ho hpu hu.no_event, hu.out, hs.settled hn]; simp [hl]
      settling := by simp [hpu] }
  · obtain ⟨hlow, hlast⟩ := hs.settling hn
    obtain ⟨es, hes⟩ := List.getLast?_eq_some_iff.1 hlast
    exact lineFollows_closeCycle_clr (hp.trans hes) (hl.trans hlow) fun _ => ho

theorem SamePin.boundTo {s u : State} {h : Handle} {m : PortValue} (hu : SamePin s u) (hb : BoundTo h m u) :
    BoundTo h m s := ⟨hu.pinHandle ▸ hb.1, hu.pinMask ▸ hb.2⟩

theorem SamePin.boundTo_after {s u : State} {h : Handle} {m : PortValue} (hu : SamePin s u) (hb : BoundTo h m s) :
    BoundTo h m u := ⟨hu.pinHandle.trans hb.1, hu.pinMask.trans hb.2⟩

/-- R45 (e), R7: the mask of a bound pin is not empty. -/
theorem mask_ne_zero_of_bound {s : State} {h : Handle} {m : PortValue} (hw : s.cfg.wf = true) (hc : ControlInv s)
    (hf : s.fsm ≠ .unbound) (hb : BoundTo h m s) : m ≠ 0 := by
  obtain ⟨h', m', hr, -, hm⟩ := hc.bound hf
  cases hb.2.symm.trans hm
  exact resolve_mask_ne_zero hw hr

theorem boundTo_closeCycle {u : State} {h : Handle} {m : PortValue} (os : List GpioEvent) (hb : BoundTo h m u) :
    BoundTo h m (closeCycle os u) := by
  simpa [BoundTo] using hb

/-- R36: every way a cycle treats the bound pin keeps the line at the level of its bit. -/
theorem pinLevelInv_closeCycle {s u : State} (hr : Runs s) (hc : ControlInv s) (hg : s.glitched = false)
    (hl : PinLevelInv s) (hf : u.fsm ≠ .unbound) (hu : PinCase s u) : PinLevelInv (closeCycle (othersNow s) u) := by
  have quiet {h m} (hs : SamePin s u) (hb : BoundTo h m s) : Untouched h m (othersNow s) :=
    untouched_of_duty hr.duty (hs.bound_before hf) hb
  cases hu with
  | released h0 => exact absurd h0 hf
  | kept hs hp hline =>
    obtain ⟨h, m, -, hh, hm⟩ := hc.bound (hs.bound_before hf)
    exact pinLevelInv_of_lineFollows (boundTo_closeCycle _ (hs.boundTo_after ⟨hh, hm⟩))
      (lineFollows_closeCycle_kept (hl.lineFollows hg (hs.bound_before hf) ⟨hh, hm⟩) hs hp hline (quiet hs ⟨hh, hm⟩))
  | low h m hs hb _ hp hline =>
    exact pinLevelInv_of_lineFollows (boundTo_closeCycle _ hb)
      (lineFollows_closeCycle_clr (es := []) hp hline fun _ => quiet hs (hs.boundTo hb))
  | high h m hs hb _ hp hline =>
    exact pinLevelInv_of_lineFollows (boundTo_closeCycle _ hb)
      (lineFollows_closeCycle_set (mask_ne_zero_of_bound hr.cfg_wf hc (hs.bound_before hf) (hs.boundTo hb)) hp hline
        (quiet hs (hs.boundTo hb)))
  | bound h m _ _ hb hp hline =>
    exact pinLevelInv_of_lineFollows (boundTo_closeCycle _ hb)
      (lineFollows_closeCycle_clr (es := [.mode s.pinId .output]) hp hline (by simp))
  | rebound p h m _ hb hp hline =>
    exact pinLevelInv_of_lineFollows (boundTo_closeCycle _ hb)
      (lineFollows_closeCycle_clr (es := [.mode s.pinId .input, .mode p .output]) hp hline (by simp))

/-- Settles O57: the events of the block drive the bit with the line, and R264 keeps the other owners off it. -/
theorem stepKeepsPinLevel : Obligations.StepKeepsPinLevel := by
  intro s t hc hl h
  by_cases hg : t.glitched = false
  swap
  · exact ⟨fun h => absurd h hg, fun h => absurd h hg⟩
  by_cases hf : t.fsm = .unbound
  · exact ⟨fun _ h => absurd hf h, fun _ h => absurd hf h⟩
  obtain ⟨hr, hgs, u, hu, rfl | ⟨e, rfl⟩⟩ := step_pinCase hc h hg hf
  · exact pinLevelInv_closeCycle hr hc hgs hl (by simpa using hf) hu
  · exact { pinLevelInv_closeCycle hr hc hgs hl (by simpa [release] using hf) hu with }

/-! ## The mode of the bound pin -/

/-- The mode of pin `p` after an event, `m` being the one before. -/
def modeAfter (p : PinId) (m : Option PinMode) : GpioEvent → Option PinMode
  | .mode q d => if p = q then some d else m
  | .set _ _ | .clr _ _ => m

theorem modeGet_applyGpio (e : GpioEvent) (s : State) (p : PinId) :
    modeGet (applyGpio e s).mode p = modeAfter p (modeGet s.mode p) e := by
  cases e with
  | mode q d => exact modeGet_modeSet s.mode q p (some d)
  | set | clr => rfl

/-- R262: the mode once the events still to be issued have taken effect. -/
theorem modeGet_drained (s : State) (p : PinId) :
    modeGet (drained s).mode p = s.gpioPending.foldl (modeAfter p) (modeGet s.mode p) := by
  unfold drained
  generalize s.gpioPending = es
  induction es generalizing s with
  | nil => rfl
  | cons e es ih => rw [List.foldl_cons, List.foldl_cons, ih, modeGet_applyGpio]

/-- R262: the mode of a pin none of the other owners' events writes, whatever event of the block they clash with. -/
theorem modeGet_applyOther {e : GpioEvent} {p : PinId} (s : State) (he : ∀ d, e ≠ .mode p d) :
    modeGet (applyOther s e).mode p = modeGet s.mode p := by
  have hne : modeGet (applyGpio e s).mode p = modeGet s.mode p := by
    rw [modeGet_applyGpio]
    cases e with
    | mode q d =>
      have hq : p ≠ q := fun h => he d (by rw [h])
      simp [modeAfter, hq]
    | set | clr => rfl
  unfold applyOther
  split
  · exact hne
  next own _ =>
  split
  swap
  · exact hne
  next hcl =>
  rw [← hne]
  cases own with
  | set | clr => rfl
  | mode q d =>
    cases e with
    | set | clr => simp [gpioClash] at hcl
    | mode q' d' =>
      have hq : q = q' := by simpa [gpioClash] using hcl
      have hp : p ≠ q := fun h => he d' (by rw [h, hq])
      simp [forgetGpio, modeGet_modeSet, hp]

theorem modeGet_foldl_applyOther {es : List GpioEvent} {p : PinId} (s : State) (hes : ∀ d, .mode p d ∉ es) :
    modeGet (es.foldl applyOther s).mode p = modeGet s.mode p := by
  induction es generalizing s with
  | nil => rfl
  | cons e es ih =>
    simp only [List.mem_cons, not_or] at hes
    rw [List.foldl_cons, ih _ fun d => (hes d).2, modeGet_applyOther s fun d => Ne.symm (hes d).1]

/-- R261, R262: the end of a cycle issues one event, and the mode that will stand is the same. -/
theorem modeGet_drained_closeCycle {os : List GpioEvent} {p : PinId} (u : State) (ho : ∀ d, .mode p d ∉ os) :
    modeGet (drained (closeCycle os u)).mode p = modeGet (drained u).mode p := by
  rw [modeGet_drained, modeGet_drained, closeCycle_gpioPending]
  cases hp : u.gpioPending with
  | nil => rw [closeCycle_of_nil hp, modeGet_foldl_applyOther _ ho]; rfl
  | cons e es => rw [closeCycle_of_cons hp, modeGet_foldl_applyOther _ ho, modeGet_applyGpio]; rfl

/-- R264: while the pin is bound, the other owners do not write its mode. -/
theorem mode_notMem_of_duty {s : State} {es : List GpioEvent} (hd : es.all (keepsDuty s) = true)
    (hf : s.fsm ≠ .unbound) (d : PinMode) : .mode s.pinId d ∉ es := by
  intro he
  have := List.all_eq_true.1 hd _ he
  simp [keepsDuty, hf] at this

/-- R37: every way a cycle treats the bound pin keeps its mode at output, once its events are issued. -/
theorem mode_output_closeCycle {s u : State} (hs : s.fsm ≠ .unbound → modeGet (drained s).mode s.pinId = some .output)
    (ho : ∀ d, .mode s.pinId d ∉ othersNow s) (hf : u.fsm ≠ .unbound) (hu : PinCase s u) :
    modeGet (drained (closeCycle (othersNow s) u)).mode u.pinId = some .output := by
  have before (hb : SamePin s u) : s.gpioPending.foldl (modeAfter s.pinId) (modeGet s.mode s.pinId) = some .output :=
    (modeGet_drained _ _).symm.trans (hs (hb.bound_before hf))
  cases hu with
  | released h0 => exact absurd h0 hf
  | kept hb hp =>
    rw [hb.pinId, modeGet_drained_closeCycle u ho, modeGet_drained, hp, hb.mode, before hb]
  | low h m hb _ h0 hp | high h m hb _ h0 hp =>
    have hmode := before hb
    rw [h0] at hmode
    rw [hb.pinId, modeGet_drained_closeCycle u ho, modeGet_drained, hp, hb.mode]
    exact hmode
  | bound h m hi _ _ hp =>
    rw [hi, modeGet_drained_closeCycle u ho, modeGet_drained, hp]
    simp [modeAfter]
  | rebound p h m hi _ hp =>
    rw [modeGet_drained, closeCycle_gpioPending, hp, hi]
    simp [modeAfter]

/-- Settles O58: every BEGIN and SETPIN calls the output mode for the pin it binds, and no other owner writes it. -/
theorem stepKeepsPinMode : Obligations.StepKeepsPinMode := by
  intro s t hc hm hothers h hg hf
  obtain ⟨hr, hgs, u, hu, ht⟩ := step_pinCase hc h hg hf
  have ho : ∀ d, .mode s.pinId d ∉ othersNow s := by
    by_cases hs : s.fsm = .unbound
    · exact hothers hs
    · exact mode_notMem_of_duty hr.duty hs
  have hfu : u.fsm ≠ .unbound := by rcases ht with rfl | ⟨e, rfl⟩ <;> simpa [release] using hf
  have hmode := mode_output_closeCycle (hm hgs) ho hfu hu
  rcases ht with rfl | ⟨e, rfl⟩
  · simpa using hmode
  · rw [modeGet_drained] at hmode ⊢
    simpa [release] using hmode

/-- Settles O9: after reset nothing is bound, the buffer is empty and the brightness the sentinel. -/
theorem resetMeetsInvariants : Obligations.ResetMeetsInvariants := fun c st o =>
  ⟨controlInv_initial c st o, bufferInv_initial c st o, brightnessInv_initial c st o,
    ⟨fun _ h => absurd rfl h, fun _ h => absurd rfl h⟩, fun _ h => absurd rfl h⟩

end Sys2Proof.Machine
end

section
/-! PROOFS. The statement of the memory (20_memory.md): where each channel order puts the three bytes of a pixel (R63), by what
SETPIX3 leaves at the channels' addresses and what GETPIX reads there. -/

namespace Sys2Proof.Machine

open Sys2Proof

/-! ## The bytes of a written pixel -/

/-- R171: at the sentinel a byte is stored unscaled. -/
theorem scaleW_of_eq_zero {bright : BitVec 9} (hb : bright = 0) (c : Byte) : scaleW bright c = c := if_pos hb

theorem bufGet_bufWithPixel_red (s : State) (i : PixIndex) (r g b : Byte) :
    bufGet (bufWithPixel s i r g b) (base i + rOff s.order) = scaleW s.bright r := by
  obtain ⟨hrg, hrb, -⟩ := offsets_distinct s.order
  simp [bufWithPixel, bufGet_bufSet, hrg, hrb]

theorem bufGet_bufWithPixel_green (s : State) (i : PixIndex) (r g b : Byte) :
    bufGet (bufWithPixel s i r g b) (base i + gOff s.order) = scaleW s.bright g := by
  obtain ⟨-, -, hgb⟩ := offsets_distinct s.order
  simp [bufWithPixel, bufGet_bufSet, hgb]

theorem bufGet_bufWithPixel_blue (s : State) (i : PixIndex) (r g b : Byte) :
    bufGet (bufWithPixel s i r g b) (base i + bOff s.order) = scaleW s.bright b := by
  simp [bufWithPixel, bufGet_bufSet]

/-! ## The pixel commands in range -/

/-- R172: SETPIX3 in range writes the three scaled bytes and nothing else. -/
theorem exec_setPix3_of_inRange {s : State} {i : PixIndex} (r g b : Byte) (h : pixelInRange s i = true) :
    exec (.setPix3 i r g b) s = .next { s with buf := bufWithPixel s i r g b } := by
  rw [exec_eq_resultOf (.setPix3 i r g b) s nofun, resultOf, if_pos h]

/-- R174: GETPIX in range answers the three stored bytes, repacked. -/
theorem exec_getPix_of_inRange {s : State} {i : PixIndex} (h : pixelInRange s i = true) :
    exec (.getPix i) s = .next (respond (packColor (bufGet s.buf (base i + rOff s.order))
      (bufGet s.buf (base i + gOff s.order)) (bufGet s.buf (base i + bOff s.order))) s) := by
  rw [exec_eq_resultOf (.getPix i) s nofun, resultOf, if_pos h]
  rfl

/-- R177: GETPIX after SETPIX3 of the same pixel answers the three scaled bytes, in every channel order. -/
theorem exec_getPix_bufWithPixel {s : State} {i : PixIndex} (r g b : Byte) (h : pixelInRange s i = true) :
    exec (.getPix i) { s with buf := bufWithPixel s i r g b } =
      .next (respond (packColor (scaleW s.bright r) (scaleW s.bright g) (scaleW s.bright b))
        { s with buf := bufWithPixel s i r g b }) := by
  have hw : pixelInRange { s with buf := bufWithPixel s i r g b } i = true := h
  rw [exec_getPix_of_inRange hw]
  simp only [bufGet_bufWithPixel_red, bufGet_bufWithPixel_green, bufGet_bufWithPixel_blue]

/-- Settles O21: the bytes at `base i + rOff`, `gOff` and `bOff` are the colour's at the sentinel, and each order's offsets are
those of R63's table. -/
theorem channelOrderPlacesBytes : Obligations.ChannelOrderPlacesBytes := by
  intro s i r g b hv hi hb
  have h : pixelInRange s i = true := pixelInRange_iff.2 ⟨hv, hi⟩
  have hred := bufGet_bufWithPixel_red s i r g b
  have hgreen := bufGet_bufWithPixel_green s i r g b
  have hblue := bufGet_bufWithPixel_blue s i r g b
  have hread := exec_getPix_bufWithPixel r g b h
  simp only [scaleW_of_eq_zero hb] at hred hgreen hblue hread
  refine ⟨_, exec_setPix3_of_inRange r g b h, hread, ?_⟩
  cases ho : s.order <;> rw [ho] at hred hgreen hblue
  case rgb => exact ⟨hred, hgreen, hblue⟩
  case grb => exact ⟨hgreen, hred, hblue⟩
  case brg => exact ⟨hblue, hred, hgreen⟩

end Sys2Proof.Machine
end

section
/-! PROOFS. The statements of the encoding (30_encoding.md): the fields make up the word (R92, R97), the decoder goes by `OP` alone
(R93, R107), and it reads none of the bits its command does not use (R94). -/

namespace Sys2Proof.Machine

open Sys2Proof

/-! ## The fields make up the word -/

theorem packColor_redOf_greenOf_blueOf (c : Color) : packColor (redOf c) (greenOf c) (blueOf c) = c := by
  have high : redOf c ++ greenOf c = c.extractLsb' 8 (8 + 8) := BitVec.extractLsb'_append_extractLsb'_eq_extractLsb' rfl
  have whole : c.extractLsb' 8 (8 + 8) ++ blueOf c = c.extractLsb' 0 24 :=
    BitVec.extractLsb'_append_extractLsb'_eq_extractLsb' rfl
  rw [packColor, high, whole, BitVec.extractLsb'_eq_self]

theorem commandWord_opOf_idxOf_dataOf (w : CmdWord) : commandWord (opOf w) (idxOf w) (dataOf w) = w := by
  have high : opOf w ++ idxOf w = w.extractLsb' 24 (4 + 16) := BitVec.extractLsb'_append_extractLsb'_eq_extractLsb' rfl
  have whole : w.extractLsb' 24 (4 + 16) ++ dataOf w = w.extractLsb' 0 44 :=
    BitVec.extractLsb'_append_extractLsb'_eq_extractLsb' rfl
  rw [commandWord, high, whole, BitVec.extractLsb'_eq_self]

/-- A word with given fields is the word put together from them. -/
theorem commandWord_of_fields {w : CmdWord} {op : BitVec 4} {idx : PixIndex} {data : Color} (ho : opOf w = op)
    (hi : idxOf w = idx) (hd : dataOf w = data) : commandWord op idx data = w := by
  rw [← ho, ← hi, ← hd, commandWord_opOf_idxOf_dataOf]

/-- A colour with given bytes is the colour packed from them. -/
theorem packColor_of_bytes {c : Color} {r g b : Byte} (hr : redOf c = r) (hg : greenOf c = g) (hb : blueOf c = b) :
    packColor r g b = c := by
  rw [← hr, ← hg, ← hb, packColor_redOf_greenOf_blueOf]

theorem packColor_toNat (r g b : Byte) :
    (packColor r g b).toNat = (r.toNat <<< 16) ||| (g.toNat <<< 8) ||| b.toNat := by
  rw [packColor, BitVec.toNat_append, BitVec.toNat_append, Nat.shiftLeft_or_distrib, ← Nat.shiftLeft_add]

/-! ## Used and unused bits -/

/-- A field in which the mask `u` has no bit is equal in two words that differ in bits of `u` only. -/
theorem extractLsb'_eq_of_agree {n k len : Nat} {x y u : BitVec n} (h : (x ^^^ y) &&& ~~~u = 0)
    (hu : u.extractLsb' k len = 0) : x.extractLsb' k len = y.extractLsb' k len := by
  apply BitVec.eq_of_getLsbD_eq
  intro j hj
  have hmask : u.getLsbD (k + j) = false := by simpa [hj] using congrArg (·.getLsbD j) hu
  simp only [BitVec.getLsbD_extractLsb', hj, decide_true, Bool.true_and]
  by_cases hn : k + j < n
  · have hbit := congrArg (·.getLsbD (k + j)) h
    simp only [BitVec.getLsbD_and, BitVec.getLsbD_xor, BitVec.getLsbD_not, hmask, hn] at hbit
    simpa using hbit
  · rw [BitVec.getLsbD_of_ge _ _ (by omega), BitVec.getLsbD_of_ge _ _ (by omega)]

/-- A field that the mask `u` covers is 0 in a word without a bit of `u`. -/
theorem extractLsb'_eq_zero_of_and {n k len : Nat} {x u : BitVec n} (h : x &&& u = 0)
    (hu : u.extractLsb' k len = BitVec.allOnes len) : x.extractLsb' k len = 0 := by
  have hf := congrArg (BitVec.extractLsb' k len) h
  rw [BitVec.extractLsb'_and, hu, BitVec.and_allOnes] at hf
  simpa using hf

/-- Bits 7 to 0 of `DATA` are bits 7 to 0 of the word (R92). -/
theorem blueOf_dataOf (w : CmdWord) : blueOf (dataOf w) = w.extractLsb' 0 8 := by
  apply BitVec.eq_of_getLsbD_eq
  intro j hj
  simp [blueOf, dataOf, hj]

/-- Bits 15 to 8 of `DATA` are bits 15 to 8 of the word (R92). -/
theorem greenOf_dataOf (w : CmdWord) : greenOf (dataOf w) = w.extractLsb' 8 8 := by
  apply BitVec.eq_of_getLsbD_eq
  intro j hj
  simp [greenOf, dataOf, hj]

/-- Bits 23 to 16 of `DATA` are bits 23 to 16 of the word (R92). -/
theorem redOf_dataOf (w : CmdWord) : redOf (dataOf w) = w.extractLsb' 16 8 := by
  apply BitVec.eq_of_getLsbD_eq
  intro j hj
  simp [redOf, dataOf, hj]

/-! ## The decoder -/

/-- What a word decodes to, by its `OP` (R93). -/
inductive DecodeCase (w : CmdWord) : Decoded → Prop where
  | beginBind : opOf w = 0x1 → DecodeCase w (.command .beginBind)
  | endBind : opOf w = 0x2 → DecodeCase w (.command .endBind)
  | setPin : opOf w = 0x3 → DecodeCase w (.command (.setPin (blueOf (dataOf w))))
  | setPix3 : opOf w = 0x4 →
      DecodeCase w (.command (.setPix3 (idxOf w) (redOf (dataOf w)) (greenOf (dataOf w)) (blueOf (dataOf w))))
  | setPixP : opOf w = 0x5 → DecodeCase w (.command (.setPixP (idxOf w) (dataOf w)))
  | getPix : opOf w = 0x6 → DecodeCase w (.command (.getPix (idxOf w)))
  | numPix : opOf w = 0x7 → DecodeCase w (.command .numPix)
  | setBrt : opOf w = 0x8 → DecodeCase w (.command (.setBrt (blueOf (dataOf w))))
  | showFrame : opOf w = 0x9 → DecodeCase w (.command .showFrame)
  | color : opOf w = 0xA →
      DecodeCase w (.command (.color (redOf (dataOf w)) (greenOf (dataOf w)) (blueOf (dataOf w))))
  | reserved : ¬(1 ≤ (opOf w).toNat ∧ (opOf w).toNat ≤ 10) → DecodeCase w (.reserved (opOf w))

/-- Everything the decoder can answer. -/
theorem decode_cases (w : CmdWord) : DecodeCase w (decode w) := by
  have op_eq {k : BitVec 4} (h : (opOf w).toNat = k.toNat) : opOf w = k := BitVec.eq_of_toNat_eq h
  unfold decode
  split
  · next h => exact .beginBind (op_eq h)
  · next h => exact .endBind (op_eq h)
  · next h => exact .setPin (op_eq h)
  · next h => exact .setPix3 (op_eq h)
  · next h => exact .setPixP (op_eq h)
  · next h => exact .getPix (op_eq h)
  · next h => exact .numPix (op_eq h)
  · next h => exact .setBrt (op_eq h)
  · next h => exact .showFrame (op_eq h)
  · next h => exact .color (op_eq h)
  · exact .reserved (by simp only [imp_false] at *; omega)

/-- R96: an `OP` outside 0x1 to 0xA is reserved. -/
theorem decode_of_reserved {w : CmdWord} (h : ¬(1 ≤ (opOf w).toNat ∧ (opOf w).toNat ≤ 10)) :
    decode w = .reserved (opOf w) := by
  have hcase := decode_cases w
  generalize decode w = d at hcase ⊢
  cases hcase with
  | reserved => rfl
  | beginBind ho | endBind ho | setPin ho | setPix3 ho | setPixP ho | getPix ho | numPix ho | setBrt ho | showFrame ho
    | color ho => simp [ho] at h

/-- Settles O2: each field that the encoder puts into the word is the one the decoder reads. -/
theorem decodeEncodeAgree : Obligations.DecodeEncodeAgree := by
  intro i
  cases i with
  | beginBind | endBind | numPix | showFrame => rfl
  | setPin | setPix3 | setPixP | getPix | setBrt | color => simp [encode, decode]

/-- R94: `IDX` is 0 in a canonical word whose command does not use it. -/
theorem idxOf_of_canonical {w : CmdWord} {op : BitVec 4} (hw : canonical w = true) (ho : opOf w = op)
    (hu : idxOf (unusedBits op) = BitVec.allOnes 16) : idxOf w = 0 :=
  extractLsb'_eq_zero_of_and (by simpa [canonical, ho] using hw) hu

/-- R94: `DATA` is 0 in a canonical word whose command does not use it. -/
theorem dataOf_of_canonical {w : CmdWord} {op : BitVec 4} (hw : canonical w = true) (ho : opOf w = op)
    (hu : dataOf (unusedBits op) = BitVec.allOnes 24) : dataOf w = 0 :=
  extractLsb'_eq_zero_of_and (by simpa [canonical, ho] using hw) hu

/-- R94: the canonical words of SETPIN and SETBRT hold one byte of operand, bits 7 to 0. -/
theorem fields_of_canonical_byte {w : CmdWord} (hw : canonical w = true) (ho : opOf w = 3 ∨ opOf w = 8) :
    idxOf w = 0 ∧ redOf (dataOf w) = 0 ∧ greenOf (dataOf w) = 0 := by
  have hu : unusedBits (opOf w) = 0x0FFFFFFFF00 := by rcases ho with ho | ho <;> rw [ho] <;> rfl
  have hz : w &&& 0x0FFFFFFFF00 = 0 := by simpa [canonical, hu] using hw
  rw [redOf_dataOf, greenOf_dataOf]
  exact ⟨extractLsb'_eq_zero_of_and hz (by decide), extractLsb'_eq_zero_of_and hz (by decide),
    extractLsb'_eq_zero_of_and hz (by decide)⟩

/-- A word without a bit in its other operand fields is put together from its opcode and bits 7 to 0. -/
theorem commandWord_of_byte {w : CmdWord} {op : BitVec 4} (ho : opOf w = op)
    (hf : idxOf w = 0 ∧ redOf (dataOf w) = 0 ∧ greenOf (dataOf w) = 0) :
    commandWord op 0 (packColor 0 0 (blueOf (dataOf w))) = w := by
  obtain ⟨hi, hr, hg⟩ := hf
  exact commandWord_of_fields ho hi (packColor_of_bytes hr hg rfl).symm

/-- R107: encoding what a canonical word decodes to gives the word. -/
theorem encode_of_decode {w : CmdWord} {i : Instr} (hw : canonical w = true) (hd : decode w = .command i) :
    encode i = w := by
  have hcase := decode_cases w
  rw [hd] at hcase
  cases hcase with
  | beginBind ho | endBind ho | numPix ho | showFrame ho =>
    exact commandWord_of_fields ho (idxOf_of_canonical hw ho (by decide)) (dataOf_of_canonical hw ho (by decide))
  | setPin ho => exact commandWord_of_byte ho (fields_of_canonical_byte hw (.inl ho))
  | setBrt ho => exact commandWord_of_byte ho (fields_of_canonical_byte hw (.inr ho))
  | setPix3 ho => exact commandWord_of_fields ho rfl (packColor_of_bytes rfl rfl rfl).symm
  | setPixP ho => exact commandWord_of_fields ho rfl rfl
  | getPix ho => exact commandWord_of_fields ho rfl (dataOf_of_canonical hw ho (by decide))
  | color ho =>
    exact commandWord_of_fields ho (idxOf_of_canonical hw ho (by decide)) (packColor_of_bytes rfl rfl rfl).symm

/-- Settles O3, by the cases of the decoder. -/
theorem decoderIsTotal : Obligations.DecoderIsTotal := by
  refine ⟨fun w => ?_, fun w i => encode_of_decode⟩
  have hcase := decode_cases w
  generalize decode w = d at hcase ⊢
  cases hcase with
  | reserved ho => rw [if_neg ho]
  | beginBind ho | endBind ho | setPin ho | setPix3 ho | setPixP ho | getPix ho | numPix ho | setBrt ho | showFrame ho
    | color ho =>
    rw [if_pos (by rw [ho]; decide)]
    exact ⟨_, rfl, ho.symm⟩

/-- Settles O5: the bytes stand side by side in the colour. -/
theorem packedColourLayout : Obligations.PackedColourLayout :=
  ⟨fun r g b => ⟨packColor_toNat r g b, redOf_packColor r g b, greenOf_packColor r g b, blueOf_packColor r g b⟩,
    packColor_redOf_greenOf_blueOf⟩

/-- Settles O1, by evaluation of the decoder on the thirteen words. -/
theorem specWordsDecode : Obligations.SpecWordsDecode := by
  unfold Obligations.SpecWordsDecode
  decide

/-! ## Unused bits -/

/-- R94: the decoder reads no bit that the command of the word does not use. -/
theorem decode_eq_of_agree {w v : CmdWord} (ho : opOf w = opOf v) (h : (w ^^^ v) &&& ~~~(unusedBits (opOf w)) = 0) :
    decode w = decode v := by
  have idx_eq (hu : idxOf (unusedBits (opOf w)) = 0) : idxOf w = idxOf v := extractLsb'_eq_of_agree h hu
  have data_eq (hu : dataOf (unusedBits (opOf w)) = 0) : dataOf w = dataOf v := extractLsb'_eq_of_agree h hu
  have blue_eq (hu : (unusedBits (opOf w)).extractLsb' 0 8 = 0) : blueOf (dataOf w) = blueOf (dataOf v) := by
    rw [blueOf_dataOf, blueOf_dataOf, extractLsb'_eq_of_agree h hu]
  have hcase := decode_cases w
  generalize decode w = d at hcase ⊢
  cases hcase with
  | beginBind hw | endBind hw | numPix hw | showFrame hw => simp [decode, ← ho, hw]
  | setPin hw | setBrt hw => simp [decode, ← ho, hw, blue_eq (by rw [hw]; decide)]
  | setPix3 hw | setPixP hw =>
    simp [decode, ← ho, hw, idx_eq (by rw [hw]; decide), data_eq (by rw [hw]; decide)]
  | getPix hw => simp [decode, ← ho, hw, idx_eq (by rw [hw]; decide)]
  | color hw => simp [decode, ← ho, hw, data_eq (by rw [hw]; decide)]
  | reserved hw => rw [decode_of_reserved (ho ▸ hw), ho]

/-- R264: a cycle in which another owner breaks a duty stops the machine, unless it is a reset. -/
theorem step_dutyBroken {s : State} (hw : s.cfg.wf = true) (hr : rstNow s = false)
    (hd : (othersNow s).all (keepsDuty s) = false) : step s = .fault .gpioDutyBroken := by
  cases hi : inputs s with
  | reset st => simp [rstNow, hi] at hr
  | run p os =>
    have hd : os.all (keepsDuty s) = false := by simpa only [othersNow, hi] using hd
    simp [step, cycle, activity, hw, hi, hd]

/-- R91: when the port is ready. -/
theorem cmdReady_iff {s : State} : cmdReady s = true ↔ rstNow s = false ∧ s.seq = .idle ∧ s.executing = none := by
  simp [cmdReady, and_assoc]

/-- With the port ready, the cycle in which a word is offered stops as it would with any word, or accepts the word. -/
theorem step_offered {s : State} (w : CmdWord) (rest : List Offer) (hr : cmdReady s = true) :
    step { s with host := { wait := 0, word := w } :: rest } =
      if s.cfg.wf = false then .refused .illFormedConfiguration
      else if (othersNow s).all (keepsDuty s) = false then .fault .gpioDutyBroken
      else acceptCycle exec w rest { s with host := { wait := 0, word := w } :: rest } := by
  split
  · next hw => exact step_illFormed hw
  · next hw =>
    have hw : s.cfg.wf = true := by simpa using hw
    split
    · next hd => exact step_dutyBroken hw (cmdReady_iff.1 hr).1 hd
    · next hd =>
      have hd : (othersNow s).all (keepsDuty s) = true := by simpa only [Bool.not_eq_false] using hd
      exact step_accept ⟨hw, hr, rfl, hd⟩

/-- R94: the accepting cycle goes by what the word decodes to, and keeps nothing else of the word. -/
theorem acceptCycle_congr {w v : CmdWord} (rest : List Offer) (s : State) (h : decode w = decode v) :
    acceptCycle exec w rest { s with host := { wait := 0, word := w } :: rest } =
      acceptCycle exec v rest { s with host := { wait := 0, word := v } :: rest } := by
  unfold acceptCycle
  rw [h]
  rfl

/-- R94: a word of SETPIN or SETBRT is canonical exactly when `IDX` and `DATA[23:8]` are 0. -/
theorem canonical_byte_iff {w : CmdWord} (ho : opOf w = 3 ∨ opOf w = 8) :
    canonical w = true ↔ idxOf w = 0 ∧ redOf (dataOf w) = 0 ∧ greenOf (dataOf w) = 0 := by
  refine ⟨fun hw => fields_of_canonical_byte hw ho, fun hf => ?_⟩
  rcases ho with ho | ho
  · rw [← commandWord_of_byte ho hf]
    exact (Laws.EncodesCanonically.setPin _).1
  · rw [← commandWord_of_byte ho hf]
    exact (Laws.EncodesCanonically.setBrt _).1

/-- R94: the encoder writes 0 into the bits that the command does not use. -/
theorem encode_canonical (i : Instr) : canonical (encode i) = true := by
  open Laws.EncodesCanonically in
  cases i with
  | beginBind => exact beginBind.1
  | endBind => exact endBind.1
  | setPin p => exact (setPin p).1
  | setPix3 i r g b => exact (setPix3 i r g b).1
  | setPixP i c => exact (setPixP i c).1
  | getPix i => exact (getPix i).1
  | numPix => exact numPix.1
  | setBrt l => exact (setBrt l).1
  | showFrame => exact showFrame.1
  | color r g b => exact (color r g b).1

/-- Settles O4: two words that agree in the bits their command uses decode alike, and the accepting cycle keeps of a word only what
it decodes to. -/
theorem unusedBitsIgnored : Obligations.UnusedBitsIgnored := by
  refine ⟨fun w v ho h => ?_, encode_canonical, fun w => canonical_byte_iff⟩
  have hd := decode_eq_of_agree ho h
  refine ⟨hd, fun s rest hr => ?_⟩
  rw [step_offered w rest hr, step_offered v rest hr, acceptCycle_congr rest s hd]

end Sys2Proof.Machine
end

section
/-! PROOFS. The statements of the command port (30_encoding.md): when a word is taken (R91, R230), what a reserved word does (R96),
how long an accepted command keeps the port busy (R91), and in which of these cycles its response is on the port (R95). -/

namespace Sys2Proof.Machine

open Sys2Proof

/-! ## The accepting cycle -/

/-- R96: the cycle that accepts a reserved word executes no command. -/
theorem step_accept_reserved {s : State} {w : CmdWord} {rest : List Offer} {op : BitVec 4} (ha : Accepts s w rest)
    (hd : decode w = .reserved op) : step s = .next (closeCycle (othersNow s) (occupy none (taken rest s))) := by
  rw [step_accept ha]
  simp only [acceptCycle, hd, closeAccept]

/-- The cycle that accepts a command's word executes the command. -/
theorem step_accept_command {s u : State} {w : CmdWord} {rest : List Offer} {i : Instr} (ha : Accepts s w rest)
    (hd : decode w = .command i) (hx : exec i (taken rest s) = .next u) :
    step s = .next (closeCycle (othersNow s) (occupy (some i) u)) := by
  rw [step_accept ha]
  simp only [acceptCycle, hd, closeAccept, hx]

/-- R96, R91: without events or a response to come, a reserved word occupies the port and does nothing else. -/
theorem occupy_none_taken {s : State} (rest : List Offer) (hs : s.seq = .idle) (hp : s.gpioPending = [])
    (hr : advanceRsp s.rsp = none) :
    occupy none (taken rest s) = { s with
      host := rest, env := s.env.tail, executing := some { cmd := none, left := (timingOf s.cfg none).busy },
      rsp := none, gpioEv := none, mtEv := none } := by
  have hl : latency none (taken rest s) = (timingOf s.cfg none).busy := by simp [latency, hp]
  rw [occupy_of_idle none (s := taken rest s) hs, hl]
  simp only [taken, tick, hr, Option.map_none]

/-- The end of a cycle in which the block has no event writes the GPIO space alone. -/
theorem closeCycle_quiet {os : List GpioEvent} {s : State} (hp : s.gpioPending = []) :
    closeCycle os s = { s with out := (closeCycle os s).out, mode := (closeCycle os s).mode } := by
  rw [closeCycle_of_nil hp]
  exact (foldl_applyOther_same os s).eq

/-- Settles O11: the accepting cycle leaves the state as it was, but for the port and what the other owners write. -/
theorem reservedWordDoesNothing : Obligations.ReservedWordDoesNothing := by
  intro s w rest op ha hd hc
  have hp : s.gpioPending = [] := hc.events_out ha.not_executing
  have hocc := occupy_none_taken rest ha.seq_idle hp (advanceRsp_free hc ha.not_executing)
  refine ⟨_, step_accept_reserved ha hd, by rw [hocc], ?_⟩
  rw [hocc, closeCycle_executing]
  exact closeCycle_quiet hp

/-! ## The handshake -/

/-- R91, R230, in a state that keeps R45: during a frame the facade is `Transmitting`. -/
theorem cmdReady_iff_fsm {s : State} (hc : ControlInv s) :
    cmdReady s = true ↔ rstNow s = false ∧ s.fsm ≠ .transmitting ∧ s.executing = none := by
  rw [cmdReady_iff, ne_eq, hc.frame_iff, not_not]

theorem cmdReady_of_reset {s : State} {st : Straps} (hi : inputs s = .reset st) : cmdReady s = false := by
  simp [cmdReady, rstNow, hi]

theorem cmdReady_of_frame {s : State} (hs : s.seq ≠ .idle) : cmdReady s = false := by
  simp [cmdReady, hs]

theorem cmdReady_of_executing {s : State} {e : Executing} (he : s.executing = some e) : cmdReady s = false := by
  simp [cmdReady, he]

theorem Accepts.valid {s : State} {w : CmdWord} {rest : List Offer} (ha : Accepts s w rest) : cmdValid s = true := by
  simp [cmdValid, ha.offered]

/-- R17: a host that lets the cycle pass offers no word, and keeps every word. -/
theorem hostActivity_idle {s : State} {rest : List Offer} (h : hostActivity s = .idle rest) :
    cmdValid s = false ∧ rest.map Offer.word = s.host.map Offer.word := by
  unfold hostActivity at h
  split at h
  · next hh =>
    cases h
    simp [cmdValid, hh]
  · next o r hh =>
    split at h
    · cases h
    · next hw =>
      cases h
      simp [cmdValid, hh, hw]

/-- Settles O12: of the kinds of cycles the accepting ones alone take a word, the first. -/
theorem handshakeTakesOneWord : Obligations.HandshakeTakesOneWord := by
  intro s t hc h
  refine ⟨?_, cmdReady_iff_fsm hc⟩
  have kept (hn : cmdReady s = false ∨ cmdValid s = false) (ht : t.host.map Offer.word = s.host.map Offer.word) :
      t.host.map Offer.word =
        if cmdReady s = true ∧ cmdValid s = true then (s.host.map Offer.word).tail else s.host.map Offer.word := by
    rw [if_neg (by rcases hn with hn | hn <;> simp [hn]), ht]
  have first {w : CmdWord} {rest : List Offer} (ha : Accepts s w rest) (ht : t.host = rest) :
      t.host.map Offer.word =
        if cmdReady s = true ∧ cmdValid s = true then (s.host.map Offer.word).tail else s.host.map Offer.word := by
    rw [if_pos ⟨ha.ready, ha.valid⟩, ht, ha.offered]
    rfl
  cases step_cases h with
  | reset st o _ hi => exact kept (.inl (cmdReady_of_reset hi)) rfl
  | disturbed n _ hs =>
    obtain ⟨-, -, -, -, hhost, -⟩ := disturbedStep_keeps n (tick s)
    exact kept (.inl (cmdReady_of_frame hs)) (by simp [hhost])
  | preempted _ hs =>
    obtain ⟨-, -, -, -, hhost, -⟩ := disturb_keeps (tick s)
    exact kept (.inl (cmdReady_of_frame hs)) (by simp [hhost])
  | sequencer u _ hs _ _ hu =>
    obtain ⟨-, -, -, -, hhost, -⟩ := sequencerStep_keeps (s := tick s) hs hu
    exact kept (.inl (cmdReady_of_frame hs)) (by simp [hhost])
  | busy e _ _ he => exact kept (.inl (cmdReady_of_executing he)) (by simp [release])
  | idle rest _ _ _ ha =>
    obtain ⟨hv, hw⟩ := hostActivity_idle ha
    exact kept (.inr hv) (by simp [hw])
  | reserved w rest op ha => exact first ha (by rw [occupy_eq]; simp)
  | command w rest i u ha _ hx =>
    obtain ⟨-, -, -, -, hhost, -⟩ := exec_keeps hx
    exact first ha (by rw [occupy_eq]; simp [hhost])

/-! ## The cycles of a command in execution -/

/-- What a command in execution has left of its cycles after `n` of them; none when it has had all. -/
def executingAfter (e : Executing) (n : Nat) : Option Executing :=
  if n < e.left then some { e with left := e.left - n } else none

theorem executingAfter_of_lt {e : Executing} {n : Nat} (h : n < e.left) :
    executingAfter e n = some { e with left := e.left - n } := if_pos h

theorem executingAfter_left (e : Executing) : executingAfter e e.left = none := if_neg (Nat.lt_irrefl _)

/-- R91: each busy cycle counts the command's cycles down by one. -/
theorem release_executing (e : Executing) (n : Nat) (s : State) :
    (release { e with left := e.left - n } s).executing = executingAfter e (n + 1) := by
  have hl : 1 < e.left - n ↔ n + 1 < e.left := by omega
  simp [release, executingAfter, hl, Nat.sub_sub]

/-- A run followed by one more step. -/
theorem run_succ_of_run {n : Nat} {s t u : State} (h : core.run n s = .next t) (hu : step t = .next u) :
    core.run (n + 1) s = .next u := by
  induction n generalizing s with
  | zero =>
    cases h
    exact run_succ_of_step hu 0
  | succ n ih =>
    cases hs : step s with
    | next s' =>
      rw [run_succ_of_step hs] at h ⊢
      exact ih h
    | fault f =>
      have hc : core.step s = .fault f := hs
      simp [Host.Core.run, hc] at h
    | refused r =>
      have hc : core.step s = .refused r := hs
      simp [Host.Core.run, hc] at h

/-- `t` is the state of a program `n` cycles after `s`, in which the command `e` has begun to execute. -/
structure BusyAfter (s : State) (e : Executing) (n : Nat) (t : State) : Prop where
  programmed : Programmed t
  seq_idle : t.seq = .idle
  executing : t.executing = executingAfter e n
  host : t.host = s.host
  rsp : t.rsp = advanceRsp^[n] s.rsp

theorem BusyAfter.ready {s t : State} {e : Executing} (h : BusyAfter s e e.left t) : cmdReady t = true :=
  cmdReady_iff.2 ⟨h.programmed.runs.no_reset, h.seq_idle, h.executing.trans (executingAfter_left e)⟩

theorem BusyAfter.not_ready {s t : State} {e : Executing} {n : Nat} (h : BusyAfter s e n t) (hn : n < e.left) :
    cmdReady t = false :=
  cmdReady_of_executing (h.executing.trans (executingAfter_of_lt hn))

theorem BusyAfter.step {s t : State} {e : Executing} {n : Nat} (h : BusyAfter s e n t) (hn : n < e.left) :
    ∃ u, Machine.step t = .next u ∧ BusyAfter s e (n + 1) u := by
  have hu := step_busy h.programmed.runs h.seq_idle (h.executing.trans (executingAfter_of_lt hn))
  refine ⟨_, hu, h.programmed.step hu, ?_, release_executing e n _, ?_, ?_⟩
  · simp [release, h.seq_idle]
  · simp [release, h.host]
  · simp [release, h.rsp, Function.iterate_succ_apply']

/-- R91: a command in execution has all its cycles, one after the other. -/
theorem run_busy {s : State} {e : Executing} (hp : Programmed s) (hs : s.seq = .idle) (he : s.executing = some e)
    (n : Nat) (hn : n ≤ e.left) : ∃ t, core.run n s = .next t ∧ BusyAfter s e n t := by
  induction n with
  | zero => exact ⟨s, rfl, hp, hs, he.trans (executingAfter_of_lt (hp.control.busy_pos e he)).symm, rfl, rfl⟩
  | succ n ih =>
    obtain ⟨t, ht, hb⟩ := ih (Nat.le_of_lt hn)
    obtain ⟨u, hu, hb'⟩ := hb.step hn
    exact ⟨u, run_succ_of_run ht hu, hb'⟩

/-- R91: an accepted command that starts no frame executes from the next cycle on. -/
theorem run_accepted {s u : State} {w : CmdWord} {rest : List Offer} {i : Instr} (ha : Accepts s w rest)
    (hd : decode w = .command i) (hc : ControlInv s) (henv : ∀ c ∈ s.env, detached s.cfg c = true)
    (hx : exec i (taken rest s) = .next u) (hu : u.seq = .idle) (n : Nat) (hn : n ≤ latency (some i) u) :
    ∃ t, core.run (n + 1) s = .next t ∧
      BusyAfter (closeCycle (othersNow s) (occupy (some i) u)) { cmd := some i, left := latency (some i) u } n t := by
  have ht := step_accept_command ha hd hx
  rw [run_succ_of_step ht]
  refine run_busy (Programmed.step ⟨ha.cfg_wf, hc, henv⟩ ht) ?_ ?_ n hn
  · simp [occupy_of_idle _ hu, hu]
  · simp [occupy_of_idle _ hu]

/-! ## The length of a command -/

/-- R222, R224, R226: a command other than a SETPIN in `Ready` with a pin that resolves calls at most two events. -/
theorem exec_events_le_two {i : Instr} {s u : State} (hx : exec i s = .next u)
    (h : s.fsm ≠ .ready ∨ ∀ p, i = .setPin p → resolve s.cfg p = none) :
    u.gpioPending.length ≤ s.gpioPending.length + 2 := by
  cases exec_cases hx with
  | ignored | empty => simp [emptyFrameStart]
  | frame => simp [frameStart]
  | result hne =>
    cases i with
    | showFrame => exact absurd rfl hne
    | beginBind => simp only [resultOf]; split <;> simp
    | endBind => simp only [resultOf]; split <;> simp
    | setPin p =>
      simp only [resultOf]
      split
      · simp
      · next hr =>
        have hf : s.fsm ≠ .ready := h.resolve_right fun hn => by simp [hn p rfl] at hr
        simp [if_neg hf]
    | setPix3 | setPixP | setBrt => simp only [resultOf]; split <;> simp
    | getPix | numPix | color => simp [resultOf]

/-- R226: a SETPIN in `Ready` with a pin that resolves calls three events. -/
theorem exec_setPin_events {p : PinId} {s u : State} (hx : exec (.setPin p) s = .next u) (hf : s.fsm = .ready)
    (hr : resolve s.cfg p ≠ none) : u.gpioPending.length = s.gpioPending.length + 3 := by
  rw [exec_eq_resultOf (.setPin p) s nofun] at hx
  cases hx
  obtain ⟨⟨h, m⟩, hr⟩ := Option.ne_none_iff_exists'.1 hr
  simp [resultOf, hr, hf]

theorem exec_events_le_three {i : Instr} {s u : State} (hx : exec i s = .next u) :
    u.gpioPending.length ≤ s.gpioPending.length + 3 := by
  by_cases h : s.fsm ≠ .ready ∨ ∀ p, i = .setPin p → resolve s.cfg p = none
  · exact (exec_events_le_two hx h).trans (by omega)
  · push Not at h
    obtain ⟨hf, p, rfl, hr⟩ := h
    exact (exec_setPin_events hx hf hr).le

/-- Settles O13: the command executes for `latency` cycles, which is `LAT_CMD` unless three events need one more. -/
theorem portBusyForLatency : Obligations.PortBusyForLatency := by
  intro s w rest i u ha hd hc henv hx hu
  have hrun := run_accepted ha hd hc henv hx hu
  have hp : (taken rest s).gpioPending.length = 0 := by simp [hc.events_out ha.not_executing]
  have hcfg : u.cfg = s.cfg := (exec_keeps hx).1
  have hlat : latency (some i) u = max (timingOf s.cfg (some i)).busy (u.gpioPending.length - 1) := by rw [latency, hcfg]
  obtain ⟨hb, -⟩ := timingOf_wf ha.cfg_wf (some i)
  have hhost : (closeCycle (othersNow s) (occupy (some i) u)).host = rest := by
    obtain ⟨-, -, -, -, hh, -⟩ := exec_keeps hx
    rw [occupy_eq]
    simp [hh]
  refine ⟨fun h => ?_, fun p hf hi hr h1 => ?_, fun n hn => ?_, ?_⟩
  · have h3 := exec_events_le_three hx
    rcases or_assoc.2 h with h | h
    · have h2 := exec_events_le_two hx h
      omega
    · omega
  · subst hi
    have h3 := exec_setPin_events hx hf hr
    omega
  · obtain ⟨t, ht, hbusy⟩ := hrun n hn.le
    exact ⟨t, ht, hbusy.not_ready hn, hbusy.host.trans hhost⟩
  · obtain ⟨t, ht, hbusy⟩ := hrun _ le_rfl
    exact ⟨t, ht, hbusy.ready, hbusy.host.trans hhost⟩

/-! ## The response -/

/-- R95: a response on its way is on the port in the cycle in which it no longer waits. -/
theorem rspNow_of_rsp {s : State} {v : Color} {k : Nat} (h : s.rsp = some { value := v, wait := k }) :
    rspNow s = if k = 0 then some v else none := by
  simp [rspNow, h]

theorem iterate_advanceRsp_none (n : Nat) : advanceRsp^[n] none = none := Function.iterate_fixed rfl n

/-- R95: a response comes nearer with every cycle, and is over after its own. -/
theorem iterate_advanceRsp (v : Color) (k n : Nat) :
    advanceRsp^[n] (some { value := v, wait := k }) = if n ≤ k then some { value := v, wait := k - n } else none := by
  induction n generalizing k with
  | zero => rfl
  | succ n ih =>
    rw [Function.iterate_succ_apply]
    cases k with
    | zero => simpa [advanceRsp] using iterate_advanceRsp_none n
    | succ k => simpa [advanceRsp] using ih k

/-- R95: a response that waits `k` cycles is on the port in the `k`th cycle from now, and in no other. -/
theorem rspNow_of_iterate {t : State} {v : Color} {k n : Nat}
    (h : t.rsp = advanceRsp^[n] (some { value := v, wait := k })) : rspNow t = if n = k then some v else none := by
  rw [iterate_advanceRsp] at h
  by_cases hn : n ≤ k
  · have h0 : k - n = 0 ↔ n = k := by omega
    rw [if_pos hn] at h
    simp only [rspNow_of_rsp h, h0]
  · have hne : n ≠ k := fun he => hn he.le
    simp [rspNow, h, hn, hne]

/-- Settles O14: the response waits as long as the command's timing says, which is within its cycles. -/
theorem responseOnPortOnce : Obligations.ResponseOnPortOnce := by
  intro s w rest i u v ha hd hc henv hx hrsp hu _
  obtain ⟨-, hr1, hr2⟩ := timingOf_wf ha.cfg_wf (some i)
  have hcfg : u.cfg = s.cfg := (exec_keeps hx).1
  have hlat : (timingOf s.cfg (some i)).busy ≤ latency (some i) u := hcfg ▸ (latency_bounds (some i) u).1
  refine ⟨(timingOf s.cfg (some i)).rsp, hr1, hr2, fun n hn => ?_⟩
  obtain ⟨t, ht, hb⟩ := run_accepted ha hd hc henv hx hu n (hn.trans hlat)
  have hwait : (closeCycle (othersNow s) (occupy (some i) u)).rsp =
      some { value := v, wait := (timingOf s.cfg (some i)).rsp - 1 } := by
    simp [occupy_of_idle _ hu, hrsp, hcfg]
  have hd : n = (timingOf s.cfg (some i)).rsp - 1 ↔ n + 1 = (timingOf s.cfg (some i)).rsp := by omega
  have hn := rspNow_of_iterate (hwait ▸ hb.rsp)
  simp only [hd] at hn
  exact ⟨t, ht, hn⟩

end Sys2Proof.Machine
end

section
/-! PROOFS. The statements of the protocol encoder cycle by cycle (40_protocol_encoder.md): the cycle with nothing in progress
(R134, R95, R72), SHOW (R131), and the sequencer step arm by arm (R134). -/

namespace Sys2Proof.Machine

open Sys2Proof

/-! ## The idle cycle -/

/-- R91: a cycle with the port ready in which the host lets the cycle pass. -/
theorem step_idle {s : State} {rest : List Offer} (h : Runs s) (hs : s.seq = .idle) (he : s.executing = none)
    (ha : hostActivity s = .idle rest) : step s = .next (closeCycle (othersNow s) (taken rest s)) := by
  simp [step, cycle, activity_of_runs h, hs, he, ha, idleCycle]

/-- R134, R95, R72: that cycle leaves the block as it was, but for what the other owners write of the GPIO space. -/
theorem step_idle_frame {s : State} {rest : List Offer} (h : Runs s) (hc : ControlInv s) (hs : s.seq = .idle)
    (he : s.executing = none) (ha : hostActivity s = .idle rest) :
    ∃ t, step s = .next t ∧ t.host = rest ∧
      t = closeCycle (othersNow s) { s with host := rest, env := s.env.tail, rsp := none, gpioEv := none, mtEv := none } ∧
      t = { s with
        host := rest, env := s.env.tail, rsp := none, gpioEv := none, mtEv := none, out := t.out, mode := t.mode } := by
  have htaken : taken rest s = { s with
      host := rest, env := s.env.tail, rsp := none, gpioEv := none, mtEv := none } := by
    simp only [taken, tick, advanceRsp_free hc he]
  refine ⟨_, step_idle h hs he ha, by simp, by rw [htaken], ?_⟩
  rw [htaken]
  exact closeCycle_quiet (hc.events_out he)

/-- Settles O16: the host has no word to offer, or lets the cycle pass and comes one cycle nearer to its word. -/
theorem idleCycleChangesNothing : Obligations.IdleCycleChangesNothing := by
  intro s hr hc hs he hv
  cases hh : s.host with
  | nil =>
    obtain ⟨t, ht, hhost, hclose, hframe⟩ := step_idle_frame hr hc hs he (rest := []) (by simp [hostActivity, hh])
    exact ⟨t, ht, hhost, hhost ▸ hclose, hhost ▸ hframe⟩
  | cons o rest =>
    have hw : o.wait ≠ 0 := by simpa [cmdValid, hh] using hv
    obtain ⟨t, ht, hhost, hclose, hframe⟩ := step_idle_frame hr hc hs he
      (rest := { o with wait := o.wait - 1 } :: rest) (by simp [hostActivity, hh, hw])
    exact ⟨t, ht, hhost, hhost ▸ hclose, hhost ▸ hframe⟩

/-! ## SHOW -/

theorem exec_show_ignored {s : State} (h : s.fsm ≠ .ready ∨ s.bufValid = false) : exec .showFrame s = .next s := by
  rcases execShow_cases s with ⟨-, hx⟩ | ⟨hf, hv, -⟩ | ⟨hf, hv, -⟩
  · exact hx
  all_goals simp [hf, hv] at h

theorem exec_show_empty {s : State} (hf : s.fsm = .ready) (hv : s.bufValid = true) (hn : s.nLeds = 0) :
    exec .showFrame s = .next (emptyFrameStart s) := by
  rcases execShow_cases s with ⟨hno, -⟩ | ⟨-, -, -, hx⟩ | ⟨-, -, hne, -⟩
  · simp [hf, hv] at hno
  · exact hx
  · exact absurd hn hne

theorem exec_show_frame {s : State} {h : Handle} {m : PortValue} (hf : s.fsm = .ready) (hv : s.bufValid = true)
    (hn : s.nLeds ≠ 0) (hh : s.pinHandle = some h) (hm : s.pinMask = some m) :
    exec .showFrame s = .next (frameStart h m s) := by
  rcases execShow_cases s with ⟨hno, -⟩ | ⟨-, -, h0, -⟩ | ⟨-, -, -, ⟨h', m', hh', hm', hx⟩ | ⟨hno, -⟩⟩
  · simp [hf, hv] at hno
  · exact absurd h0 hn
  · obtain rfl : h = h' := Option.some.inj (hh.symm.trans hh')
    obtain rfl : m = m' := Option.some.inj (hm.symm.trans hm')
    exact hx
  · simp [hh, hm] at hno

/-- Settles O39: the three ways of SHOW, and R230. -/
theorem showStartsFrame : Obligations.ShowStartsFrame :=
  ⟨fun _ => exec_show_ignored, fun _ => exec_show_empty, fun _ _ _ => exec_show_frame, fun _ => cmdReady_of_frame⟩

/-! ## The sequencer step -/

/-- R134: a cycle of an undisturbed frame without `PREEMPT` takes the sequencer step. -/
theorem step_sequencer {s u : State} (h : Runs s) (hs : s.seq ≠ .idle) (hd : s.disturbed = none)
    (hp : preemptNow s = false) (hu : sequencerStep (tick s) = .ok u) :
    step s = .next (closeCycle (othersNow s) u) := by
  simp [step_frame h hs, frameCycle, hd, hp, hu]

/-- R134, R31: with a bound pin and `BYTE_PTR` in its range the sequencer step answers a state. -/
theorem sequencerStep_answers {s : State} {h : Handle} {m : PortValue} (hs : s.seq ≠ .idle) (hh : s.pinHandle = some h)
    (hm : s.pinMask = some m) (hp : s.seq = .gap ∨ s.bytePtr.toNat < nBytes s) : ∃ u, sequencerStep s = .ok u := by
  rcases lt_or_ge 1 s.cnt.toNat with hc | hc
  · exact ⟨_, sequencerStep_count hs hc⟩
  cases hq : s.seq with
  | idle => exact absurd hq hs
  | gap => exact ⟨_, sequencerStep_finish hq hc⟩
  | hi => exact ⟨_, sequencerStep_low hq hc (hp.resolve_left (by simp [hq])) hh hm⟩
  | lo =>
    rcases hn : nextBit s.bytePtr.toNat s.bitIdx.toNat with ⟨p, i⟩
    rcases (nextBit_le (hp.resolve_left (by simp [hq])) hn).lt_or_eq with hlt | heq
    · exact ⟨_, sequencerStep_next hq hc hn hlt hh hm⟩
    · exact ⟨_, sequencerStep_gap hq hc hn heq⟩

theorem nextBit_of_pos {p i : Nat} (h : 0 < i) : nextBit p i = (p, i - 1) := if_pos h

theorem nextBit_of_zero {p i : Nat} (h : i = 0) : nextBit p i = (p + 1, 7) := if_neg (by omega)

/-- R34: in the middle of a byte the next bit is one lower. -/
theorem nextBitStarted_of_pos {s : State} (h : Handle) (m : PortValue) (hi : 0 < s.bitIdx.toNat) :
    nextBitStarted s.bytePtr.toNat (s.bitIdx.toNat - 1) h m s = { s with
      bitIdx := s.bitIdx - 1, line := true, seq := .hi, gpioPending := s.gpioPending ++ [.set h m],
      cnt := highTime s.cfg.profile ((bufGet s.buf s.bytePtr.toNat).getLsbD (s.bitIdx.toNat - 1)) } := by
  have hb : BitVec.ofNat 3 (s.bitIdx.toNat - 1) = s.bitIdx - 1 := by bv_omega
  simp [nextBitStarted, hb]

theorem ofNat_toNat_add_one {w : Nat} (x : BitVec w) : BitVec.ofNat w (x.toNat + 1) = x + 1 := by
  simp [BitVec.ofNat_add]

/-- Settles O41: the forward equation of `sequencerStep` for each arm. -/
theorem sequencerStep_arms : Obligations.SequencerStep := by
  refine ⟨fun s hs => by simp [sequencerStep, hs], fun s h m hr hs hd hp hh hm hb => ?_⟩
  obtain ⟨u, hu⟩ := sequencerStep_answers (s := tick s) hs hh hm hb
  have answer {v : State} (hv : sequencerStep (tick s) = .ok v) : u = v := Except.ok.inj (hu.symm.trans hv)
  have lower (hq : s.seq = .lo) : s.bytePtr.toNat < nBytes s := hb.resolve_left (by simp [hq])
  refine ⟨u, step_sequencer hr hs hd hp hu, fun hc => ?_, fun hc hq => ?_, fun hc hq => ?_, fun hc hq hi => ?_,
    fun hc hq hi hlt => ?_, fun hc hq hi heq => ?_⟩
  · exact answer (sequencerStep_count hs hc)
  · exact answer (sequencerStep_finish hq hc)
  · exact answer (sequencerStep_low hq hc (hb.resolve_left (by simp [hq])) hh hm)
  · rw [answer (sequencerStep_next hq hc (nextBit_of_pos hi) (lower hq) hh hm)]
    exact nextBitStarted_of_pos h m hi
  · rw [answer (sequencerStep_next hq hc (nextBit_of_zero hi) hlt hh hm)]
    simp [nextBitStarted, highTime, ofNat_toNat_add_one]
  · rw [answer (sequencerStep_gap hq hc (nextBit_of_zero hi) heq)]
    simp [gapStarted, ofNat_toNat_add_one]

end Sys2Proof.Machine
end

section
/-! PROOFS. The bits of a frame in wire order (R64, R65), and the length and the events of its waveform (R136, R137). -/

namespace Sys2Proof.Machine

open Sys2Proof

/-! ## The bits of a frame -/

/-- The `k`th bit in wire order (R64, R65): of byte `k / 8`, the most significant bit first. -/
def wireBit (s : State) (k : Nat) : Bool := (bufGet s.buf (k / 8)).getLsbD (7 - k % 8)

theorem frameBits_eq (s : State) : frameBits s = (List.range (8 * nBytes s)).map (wireBit s) := by
  unfold frameBits
  induction nBytes s with
  | zero => rfl
  | succ n ih =>
    have hbyte : (List.range 8).map (fun j => (bufGet s.buf n).getLsbD (7 - j)) =
        (List.range 8).map fun j => wireBit s (8 * n + j) := by
      refine List.map_congr_left fun j hj => ?_
      have hj : j < 8 := List.mem_range.1 hj
      have hdiv : (8 * n + j) / 8 = n := by omega
      have hmod : (8 * n + j) % 8 = j := by omega
      simp only [wireBit, hdiv, hmod]
    rw [List.range_succ (n := n), List.flatMap_append, ih, Nat.mul_succ, List.range_add, List.map_append, List.map_map]
    simpa using hbyte

@[simp] theorem frameBits_length (s : State) : (frameBits s).length = 8 * nBytes s := by simp [frameBits_eq]

theorem frameBits_drop {s : State} {k : Nat} (h : k < 8 * nBytes s) :
    (frameBits s).drop k = wireBit s k :: (frameBits s).drop (k + 1) := by
  rw [List.drop_eq_getElem_cons (by simpa using h)]
  simp [frameBits_eq]

/-! ## The length and the events of the waveform -/

theorem phaseWave_length (level : Bool) (e : GpioEvent) {n : Nat} (h : 1 ≤ n) : (phaseWave level e n).length = n := by
  rw [phaseWave, List.length_cons, List.length_replicate, Nat.sub_add_cancel h]

theorem phaseWave_events (level : Bool) (e : GpioEvent) (n : Nat) : (phaseWave level e n).filterMap Prod.snd = [e] := by
  simp [phaseWave]

theorem bitWave_length {c : Config} (hw : c.wf = true) (h : Handle) (m : PortValue) (b : Bool) :
    (bitWave c.profile h m b).length = (highTime c.profile b).toNat + (lowTime c.profile b).toNat := by
  obtain ⟨hhi, hlo, -⟩ := phase_times_pos hw b
  rw [bitWave, List.length_append, phaseWave_length _ _ hhi, phaseWave_length _ _ hlo]

theorem bitWave_events (p : Profile) (h : Handle) (m : PortValue) (b : Bool) :
    (bitWave p h m b).filterMap Prod.snd = [.set h m, .clr h m] := by
  simp [bitWave, phaseWave_events]

/-- R136: the 0 bits and the 1 bits, each with its bit period. -/
theorem bitWaves_length {c : Config} (hw : c.wf = true) (h : Handle) (m : PortValue) (bits : List Bool) :
    (bits.flatMap (bitWave c.profile h m)).length =
      bits.count false * (c.profile.t0h.toNat + c.profile.t0l.toNat) +
        bits.count true * (c.profile.t1h.toNat + c.profile.t1l.toNat) := by
  induction bits with
  | nil => simp
  | cons b bits ih =>
    rw [List.flatMap_cons, List.length_append, bitWave_length hw, ih]
    cases b <;> simp [highTime, lowTime] <;> ring

/-- R137: a set and a clear for each bit. -/
theorem bitWaves_events (p : Profile) (h : Handle) (m : PortValue) (bits : List Bool) :
    (bits.flatMap (bitWave p h m)).filterMap Prod.snd =
      (List.replicate bits.length [GpioEvent.set h m, .clr h m]).flatten := by
  induction bits with
  | nil => rfl
  | cons b bits ih =>
    rw [List.flatMap_cons, List.filterMap_append, bitWave_events, ih]
    rfl

/-- R136: the waveform has `D` cycles. -/
theorem frameWave_length {s : State} (hw : s.cfg.wf = true) (h : Handle) (m : PortValue) :
    (frameWave s h m).length = frameDuration s := by
  have hcount := List.count_false_add_count_true (frameBits s)
  rw [frameBits_length] at hcount
  have hzeros : 8 * nBytes s - (frameBits s).count true = (frameBits s).count false := by omega
  simp only [frameWave, List.length_append, bitWaves_length hw, List.length_replicate, frameDuration, hzeros]

/-- R136: with equal bit periods `D` does not depend on the bits. -/
theorem frameDuration_of_equal_periods {s : State}
    (h : s.cfg.profile.t0h.toNat + s.cfg.profile.t0l.toNat = s.cfg.profile.t1h.toNat + s.cfg.profile.t1l.toNat) :
    frameDuration s = 24 * s.nLeds.toNat * (s.cfg.profile.t0h.toNat + s.cfg.profile.t0l.toNat) +
      s.cfg.profile.tres.toNat := by
  have hle : (frameBits s).count true ≤ 8 * nBytes s := frameBits_length s ▸ List.count_le_length
  have hbits : 8 * nBytes s = 24 * s.nLeds.toNat := by unfold nBytes; omega
  simp only [frameDuration, ← h, ← Nat.add_mul, Nat.sub_add_cancel hle]
  rw [hbits]

/-- R137: the events of the waveform, the gap calling none. -/
theorem frameWave_events (s : State) (h : Handle) (m : PortValue) : (frameWave s h m).filterMap Prod.snd =
    (List.replicate (8 * nBytes s) [GpioEvent.set h m, .clr h m]).flatten := by
  have hgap : (List.replicate s.cfg.profile.tres.toNat ((false, none) : WaveCycle)).filterMap Prod.snd = [] := by simp
  rw [frameWave, List.filterMap_append, bitWaves_events, frameBits_length, hgap, List.append_nil]

/-- Settles O43: the waveform is the symbols of the buffer's bits and the gap. -/
theorem frameDurationAndEvents : Obligations.FrameDurationAndEvents := fun s h m hw =>
  ⟨frameWave_length hw h m, frameDuration_of_equal_periods, frameWave_events s h m⟩

end Sys2Proof.Machine
end

section
/-! PROOFS. The cycles of an undisturbed frame show its waveform (R132, R135), by an invariant of the run: what a cycle shows and
what is still to come make up the rest of the waveform. -/

namespace Sys2Proof.Machine

open Sys2Proof

/-! ## What is still to come of a frame -/

/-- The waveform from its `k`th bit on. -/
def waveFrom (h : Handle) (m : PortValue) (s : State) (k : Nat) : List WaveCycle :=
  ((frameBits s).drop k).flatMap (bitWave s.cfg.profile h m) ++ List.replicate s.cfg.profile.tres.toNat (false, none)

/-- The bit being sent, counted in wire order (R33, R34). -/
def wirePos (s : State) : Nat := 8 * s.bytePtr.toNat + (7 - s.bitIdx.toNat)

/-- What the phases after the present one show. -/
def phasesAfter (h : Handle) (m : PortValue) (s : State) : List WaveCycle :=
  match s.seq with
  | .hi => phaseWave false (.clr h m) (lowTime s.cfg.profile (wireBit s (wirePos s))).toNat ++
      waveFrom h m s (wirePos s + 1)
  | .lo => waveFrom h m s (wirePos s + 1)
  | .idle | .gap => []

/-- What the cycles after the present one show: the rest of its phase, and the phases after it. -/
def waveAfter (h : Handle) (m : PortValue) (s : State) : List WaveCycle :=
  List.replicate (s.cnt.toNat - 1) (s.line, none) ++ phasesAfter h m s

theorem waveFrom_zero (h : Handle) (m : PortValue) (s : State) : waveFrom h m s 0 = frameWave s h m := rfl

theorem waveFrom_bit {s : State} {k : Nat} (h : Handle) (m : PortValue) (hk : k < 8 * nBytes s) :
    waveFrom h m s k = bitWave s.cfg.profile h m (wireBit s k) ++ waveFrom h m s (k + 1) := by
  rw [waveFrom, frameBits_drop hk, List.flatMap_cons, List.append_assoc]
  rfl

theorem waveFrom_end (h : Handle) (m : PortValue) (s : State) :
    waveFrom h m s (8 * nBytes s) = List.replicate s.cfg.profile.tres.toNat (false, none) := by
  rw [waveFrom, List.drop_of_length_le (by simp)]
  rfl

theorem wireBit_wirePos (s : State) : wireBit s (wirePos s) = (bufGet s.buf s.bytePtr.toNat).getLsbD s.bitIdx.toNat := by
  have hi := s.bitIdx.isLt
  have hdiv : wirePos s / 8 = s.bytePtr.toNat := by unfold wirePos; omega
  have hmod : 7 - wirePos s % 8 = s.bitIdx.toNat := by unfold wirePos; omega
  rw [wireBit, hdiv, hmod]

theorem waveAfter_last {s : State} (h : Handle) (m : PortValue) (hc : s.cnt.toNat ≤ 1) :
    waveAfter h m s = phasesAfter h m s := by
  simp [waveAfter, Nat.sub_eq_zero_of_le hc]

/-- The end of a cycle writes nothing the waveform speaks of. -/
theorem waveAfter_closeCycle (h : Handle) (m : PortValue) (os : List GpioEvent) (s : State) :
    waveAfter h m (closeCycle os s) = waveAfter h m s := by
  obtain ⟨o, n, he⟩ := closeCycle_same os s
  rw [he]
  rfl

/-! ## The sequencer step and the waveform -/

/-- R64, R65: the step to the next bit is the step to the next bit in wire order. -/
theorem nextBit_wirePos {s : State} {p i : Nat} (hn : nextBit s.bytePtr.toNat s.bitIdx.toNat = (p, i)) :
    8 * p + (7 - i) = wirePos s + 1 ∧ i < 8 ∧ (p = s.bytePtr.toNat ∨ i = 7) := by
  have hi := s.bitIdx.isLt
  unfold nextBit at hn
  unfold wirePos
  split at hn <;> cases hn <;> omega

/-- R131, R134: what is to come when the high phase of a bit begins. -/
theorem waveFrom_of_high {s : State} (h : Handle) (m : PortValue) (hq : s.seq = .hi) (hl : s.line = true)
    (hc : s.cnt = highTime s.cfg.profile (wireBit s (wirePos s))) (hp : s.bytePtr.toNat < nBytes s) :
    waveFrom h m s (wirePos s) = (true, some (.set h m)) :: waveAfter h m s := by
  have hk : wirePos s < 8 * nBytes s := by unfold wirePos; omega
  rw [waveFrom_bit h m hk]
  simp [waveAfter, phasesAfter, hq, hl, hc, bitWave, phaseWave]

/-- R131, R134: what is to come when the gap begins, `LINE` being low. -/
theorem waveFrom_of_gap {s : State} (h : Handle) (m : PortValue) (hw : s.cfg.wf = true) (hq : s.seq = .gap)
    (hl : s.line = false) (hc : s.cnt = s.cfg.profile.tres) :
    waveFrom h m s (8 * nBytes s) = (false, none) :: waveAfter h m s := by
  obtain ⟨-, -, hr⟩ := phase_times_pos hw true
  rw [waveFrom_end, ← Nat.sub_add_cancel hr, List.replicate_succ]
  simp [waveAfter, phasesAfter, hq, hl, hc]

/-- R134, R137: a sequencer step goes one cycle on in the waveform, or ends the frame with the waveform. -/
theorem waveAfter_sequencerStep {s u : State} {h : Handle} {m : PortValue} (hw : s.cfg.wf = true) (hf : FrameFacade s)
    (hb : BoundTo h m s) (hp : s.gpioPending = []) (he : s.gpioEv = none) (hu : sequencerStep s = .ok u) :
    (u.seq ≠ .idle ∧ waveAfter h m s = (u.line, eventIssued u) :: waveAfter h m u) ∨
    (u = endFrame s ∧ waveAfter h m s = []) := by
  obtain ⟨hh, hm⟩ := hb
  have low {q : Seq} (hq : s.seq = q) (hne : q ≠ .hi) : s.line = false :=
    Bool.eq_false_iff.2 fun hl => hne (hq.symm.trans (hf.line_hi hl))
  cases sequencerStep_cases hf.seq_busy hu with
  | count hs hc =>
    have hcnt : (s.cnt - 1).toNat = s.cnt.toNat - 1 := by bv_omega
    refine .inl ⟨hs, ?_⟩
    obtain ⟨n, hn⟩ : ∃ n, s.cnt.toNat = n + 2 := ⟨_, (Nat.sub_add_cancel hc).symm⟩
    simp only [waveAfter, hcnt, hn, eventIssued, hp, he]
    rfl
  | low h' m' hq hc _ hh' hm' =>
    obtain rfl : h = h' := Option.some.inj (hh.symm.trans hh')
    obtain rfl : m = m' := Option.some.inj (hm.symm.trans hm')
    refine .inl ⟨by simp [lowStarted], ?_⟩
    simp only [waveAfter_last h m hc, phasesAfter, hq, wireBit_wirePos, eventIssued, lowStarted, hp]
    rfl
  | next p i h' m' hq hc hn hlt hh' hm' =>
    obtain rfl : h = h' := Option.some.inj (hh.symm.trans hh')
    obtain rfl : m = m' := Option.some.inj (hm.symm.trans hm')
    obtain ⟨hpos, hi, -⟩ := nextBit_wirePos hn
    have hp18 : (nextBitStarted p i h m s).bytePtr.toNat = p := toNat_ofNat_bytePtr hlt.le
    have hi3 : (nextBitStarted p i h m s).bitIdx.toNat = i := Nat.mod_eq_of_lt hi
    have hnext : wirePos (nextBitStarted p i h m s) = wirePos s + 1 := by rw [wirePos, hp18, hi3, hpos]
    refine .inl ⟨by simp [nextBitStarted], ?_⟩
    have hwave := waveFrom_of_high (s := nextBitStarted p i h m s) h m rfl rfl
      (by rw [wireBit_wirePos, hp18, hi3]; rfl) (hp18.trans_lt hlt)
    rw [waveAfter_last h m hc, phasesAfter, hq, ← hnext]
    exact hwave.trans (by simp [nextBitStarted, eventIssued, hp])
  | gap p i hq hc hn hpe =>
    obtain ⟨hpos, -, hi⟩ := nextBit_wirePos hn
    have hlt := hf.bytePtr_lt (.inr hq)
    have hend : wirePos s + 1 = 8 * nBytes s := by omega
    refine .inl ⟨by simp [gapStarted], ?_⟩
    have hl := low hq (by simp)
    rw [waveAfter_last h m hc, phasesAfter, hq, hend]
    exact (waveFrom_of_gap (s := gapStarted p i s) h m hw rfl hl rfl).trans (by simp [gapStarted, eventIssued, hp, he, hl])
  | finish hq hc =>
    exact .inr ⟨rfl, by simp [waveAfter_last h m hc, phasesAfter, hq]⟩

/-! ## The cycles of an undisturbed frame -/

/-- R264: a harmless event keeps every duty towards the binding. -/
theorem keepsDuty_of_harmless {s : State} {e : GpioEvent} (h : harmless s e = true) : keepsDuty s e = true := by
  cases e with
  | mode p d => exact Bool.or_eq_true_iff.2 (.inr h)
  | set k n | clr k n => exact Bool.or_eq_true_iff.2 (.inl h)

/-- Which inputs are harmless is a matter of the binding alone. -/
theorem undisturbed_congr {s t : State} (hp : t.pinId = s.pinId) (hh : t.pinHandle = s.pinHandle) (c : EnvCycle) :
    undisturbed t c = undisturbed s c := by
  have he : harmless t = harmless s := by
    funext e
    cases e <;> simp [harmless, hp, hh]
  cases c <;> simp [undisturbed, he]

/-- R135: in a cycle with undisturbed inputs nothing outside the block goes wrong. -/
theorem runs_of_undisturbed {s : State} (hw : s.cfg.wf = true) (h : undisturbed s (inputs s) = true) :
    Runs s ∧ preemptNow s = false := by
  cases hi : inputs s with
  | reset st => simp [hi, undisturbed] at h
  | run p os =>
    simp only [hi, undisturbed, Bool.and_eq_true, Bool.not_eq_true', List.all_eq_true] at h
    obtain ⟨hp, ho⟩ := h
    have hduty : (othersNow s).all (keepsDuty s) = true := by
      simp only [othersNow, hi]
      exact List.all_eq_true.2 fun e he => keepsDuty_of_harmless (ho e he)
    exact ⟨⟨hw, by simp [rstNow, hi], hduty⟩, by simp [preemptNow, hi, hp]⟩

/-- The inputs of the `n`th cycle from now are one of the list's, or quiet. -/
theorem undisturbed_inputs {s t : State} {n d : Nat} (h : ∀ c ∈ s.env.tail.take d, undisturbed s c = true) (hn : n < d)
    (ht : t.env = s.env.drop (n + 1)) : undisturbed s (inputs t) = true := by
  have hget : t.env.head? = s.env.tail[n]? := by rw [ht, List.head?_drop, List.getElem?_tail]
  unfold inputs
  cases he : t.env with
  | nil => rfl
  | cons c env =>
    rw [he, List.head?_cons] at hget
    exact h c (List.mem_of_getElem? ((List.getElem?_take_of_lt hn).trans hget.symm))

/-- `t`, `n` cycles after the one that accepted SHOW in `s`, has the data of `s` and the bound pin, and the inputs are used up so
far. -/
structure AfterShow (s : State) (rest : List Offer) (h : Handle) (m : PortValue) (n : Nat) (t : State) : Prop where
  intact : t.glitched = false
  data : SameData s t
  bound : BoundTo h m t
  host : t.host = rest
  env : t.env = s.env.drop (n + 1)

/-- `t` is such a state, of the frame; it shows the `n`th cycle of the waveform, and the rest of the waveform is to come. -/
structure FrameAt (s : State) (rest : List Offer) (h : Handle) (m : PortValue) (n : Nat) (t : State) : Prop where
  control : ControlInv t
  after : AfterShow s rest h m n t
  in_frame : t.seq ≠ .idle
  wave : (frameWave s h m).drop n = (t.line, t.gpioEv) :: waveAfter h m t

/-- `s` accepts SHOW in `Ready`, with a buffer and the pin bound, and nothing will disturb the frame. -/
structure AcceptsShow (s : State) (w : CmdWord) (rest : List Offer) (h : Handle) (m : PortValue) : Prop where
  accepts : Accepts s w rest
  decodes : decode w = .command .showFrame
  control : ControlInv s
  intact : s.glitched = false
  ready : s.fsm = .ready
  valid : s.bufValid = true
  bound : BoundTo h m s
  undisturbed : ∀ c ∈ s.env.tail.take (frameDuration s + 1), undisturbed s c = true

section

variable {s t u : State} {w : CmdWord} {rest : List Offer} {h : Handle} {m : PortValue} {n : Nat}

theorem AfterShow.closeCycle (os : List GpioEvent) (ha : AfterShow s rest h m n u) :
    AfterShow s rest h m n (Machine.closeCycle os u) :=
  ⟨by simpa using ha.intact, ha.data.closeCycle os, boundTo_closeCycle os ha.bound, by simpa using ha.host,
    by simpa using ha.env⟩

theorem AfterShow.sequencerStep (ha : AfterShow s rest h m n t) (hs : t.seq ≠ .idle)
    (hu : Machine.sequencerStep (tick t) = .ok u) : AfterShow s rest h m (n + 1) u := by
  obtain ⟨hcfg, hn, ho, hv, hhost, henv, hg, hb, hr, hp, hh, hm, -⟩ := sequencerStep_keeps (s := tick t) hs hu
  obtain ⟨hg', ⟨hcfg', hn', ho', hv', hb', hr', hp'⟩, ⟨hh', hm'⟩, hhost', henv'⟩ := ha
  refine ⟨hg.trans hg', ⟨hcfg.trans hcfg', hn.trans hn', ho.trans ho', hv.trans hv', hb.trans hb', hr.trans hr',
    hp.trans hp'⟩, ⟨hh.trans hh', hm.trans hm'⟩, hhost.trans hhost', ?_⟩
  rw [henv, tick_env, henv', List.tail_drop]

theorem eventIssued_of_nil (hp : u.gpioPending = []) : eventIssued u = u.gpioEv := by simp [eventIssued, hp]

/-- R131, R141: SHOW starts the waveform, with its first bit or with the gap. -/
theorem exec_show_starts (hw : s.cfg.wf = true) (hg : s.glitched = false) (hf : s.fsm = .ready) (hv : s.bufValid = true)
    (hl : s.line = false) (hp : s.gpioPending = []) (hb : BoundTo h m s) :
    ∃ u, exec .showFrame (taken rest s) = .next u ∧ AfterShow s rest h m 0 u ∧ u.seq ≠ .idle ∧
      frameWave s h m = (u.line, eventIssued u) :: waveAfter h m u := by
  have henv : s.env.tail = s.env.drop (0 + 1) := List.drop_one.symm
  by_cases hn : s.nLeds = 0
  · have hwave := waveFrom_of_gap (s := emptyFrameStart (taken rest s)) h m hw rfl hl rfl
    have h0 : 8 * nBytes (emptyFrameStart (taken rest s)) = 0 := by simp [nBytes, emptyFrameStart, hn]
    have he : eventIssued (emptyFrameStart (taken rest s)) = none := eventIssued_of_nil hp
    refine ⟨_, exec_show_empty hf hv hn, ⟨hg, ⟨rfl, rfl, rfl, rfl, rfl, rfl, rfl⟩, hb, rfl, henv⟩, nofun, ?_⟩
    rw [h0, waveFrom_zero] at hwave
    rw [he]
    exact hwave.trans (by rw [show (emptyFrameStart (taken rest s)).line = false from hl])
  · have h0 : 0 < nBytes (frameStart h m (taken rest s)) := by
      have : s.nLeds.toNat ≠ 0 := fun h0 => hn (BitVec.eq_of_toNat_eq h0)
      show 0 < 3 * s.nLeds.toNat
      omega
    have hwave := waveFrom_of_high (s := frameStart h m (taken rest s)) h m rfl rfl (by rw [wireBit_wirePos]; rfl) h0
    have he : eventIssued (frameStart h m (taken rest s)) = some (.set h m) := by simp [eventIssued, frameStart, hp]
    refine ⟨_, exec_show_frame hf hv hn hb.1 hb.2, ⟨hg, ⟨rfl, rfl, rfl, rfl, rfl, rfl, rfl⟩, hb, rfl, henv⟩, nofun, ?_⟩
    have hpos : wirePos (frameStart h m (taken rest s)) = 0 := rfl
    rw [hpos, waveFrom_zero] at hwave
    rw [he]
    exact hwave

/-- R131: in the cycle after the acceptance of SHOW the frame shows the first cycle of its waveform. -/
theorem AcceptsShow.step (hs : AcceptsShow s w rest h m) : ∃ t, Machine.step s = .next t ∧ FrameAt s rest h m 0 t := by
  obtain ⟨ha, hd, hc, hg, hf, hv, hb, -⟩ := hs
  obtain ⟨u, hx, hafter, hs, hwave⟩ := exec_show_starts (rest := rest) ha.cfg_wf hg hf hv (hc.idle ha.seq_idle).line_low
    (hc.events_out ha.not_executing) hb
  have ht := step_accept_command ha hd hx
  rw [occupy, if_neg hs] at ht
  exact ⟨_, ht, controlInv_step hc ht, hafter.closeCycle _, by simpa using hs,
    by rw [waveAfter_closeCycle, closeCycle_line, closeCycle_gpioEv, List.drop_zero, hwave]⟩

/-- R135: up to the cycle after the frame, nothing outside the block goes wrong and nothing preempts it. -/
theorem AcceptsShow.runs (hs : AcceptsShow s w rest h m) (ha : AfterShow s rest h m n t) (hn : n ≤ frameDuration s) :
    Runs t ∧ preemptNow t = false := by
  have hi := undisturbed_inputs hs.undisturbed (Nat.lt_succ_of_le hn) ha.env
  exact runs_of_undisturbed (ha.data.cfg ▸ hs.accepts.cfg_wf)
    ((undisturbed_congr ha.data.pinId (ha.bound.1.trans hs.bound.1.symm) _).trans hi)

/-- R134: the next cycle shows the next one of the waveform, or the frame has ended with it. -/
theorem FrameAt.step (ht : FrameAt s rest h m n t) (hr : Runs t) (hp : preemptNow t = false) :
    ∃ u, Machine.step t = .next u ∧ ControlInv u ∧ AfterShow s rest h m (n + 1) u ∧
      (FrameAt s rest h m (n + 1) u ∨ (u.seq = .idle ∧ u.fsm = .ready ∧ u.executing = none ∧ waveAfter h m t = [])) := by
  obtain ⟨hc, hafter, hs, hwave⟩ := ht
  have hdist : t.disturbed = none := by_contra fun hd => by simpa [hafter.intact] using (hc.disturbed_frame hd).2
  have hfacade : FrameFacade (tick t) := { hc.frame hs with }
  obtain ⟨v, hv⟩ := sequencerStep_progress hfacade
  have hstep := step_sequencer hr hs hdist hp hv
  have hcu := controlInv_step hc hstep
  have hafteru := (hafter.sequencerStep hs hv).closeCycle (othersNow t)
  refine ⟨_, hstep, hcu, hafteru, ?_⟩
  rcases waveAfter_sequencerStep (s := tick t) hr.cfg_wf hfacade hafter.bound (hc.events_out (hc.frame_port hs)) rfl hv with
    ⟨hsv, hgo⟩ | ⟨rfl, hend⟩
  · refine .inl ⟨hcu, hafteru, by simpa using hsv, ?_⟩
    rw [waveAfter_closeCycle, closeCycle_line, closeCycle_gpioEv, ← hgo, ← List.tail_drop, hwave]
    rfl
  · exact .inr ⟨by simp, by simp, by simpa using hc.frame_port hs, hend⟩

/-- R136: the cycles shown, the present one and those to come are the cycles of the frame. -/
theorem FrameAt.length (ht : FrameAt s rest h m n t) (hw : s.cfg.wf = true) :
    n + 1 + (waveAfter h m t).length = frameDuration s := by
  have hlen := congrArg List.length ht.wave
  rw [List.length_drop, frameWave_length hw, List.length_cons] at hlen
  omega

/-- R132, R135: the frame shows its waveform, one cycle after the other. -/
theorem AcceptsShow.frameAt (hs : AcceptsShow s w rest h m) (n : Nat) (hn : n < frameDuration s) :
    ∃ t, core.run (n + 1) s = .next t ∧ FrameAt s rest h m n t := by
  induction n with
  | zero =>
    obtain ⟨t, ht, hf⟩ := hs.step
    exact ⟨t, run_succ_of_step ht 0, hf⟩
  | succ n ih =>
    obtain ⟨t, ht, hf⟩ := ih (by omega)
    obtain ⟨hr, hp⟩ := hs.runs hf.after (by omega)
    obtain ⟨u, hu, -, -, hnext | ⟨-, -, -, hend⟩⟩ := hf.step hr hp
    · exact ⟨u, run_succ_of_run ht hu, hnext⟩
    · have hlen := hf.length hs.accepts.cfg_wf
      simp only [hend, List.length_nil] at hlen
      omega

/-- R134, R136: in the cycle after the `D`th the frame has ended. -/
theorem AcceptsShow.ends (hs : AcceptsShow s w rest h m) : ∃ t, core.run (frameDuration s + 1) s = .next t ∧
    ControlInv t ∧ AfterShow s rest h m (frameDuration s) t ∧ t.seq = .idle ∧ t.fsm = .ready ∧ t.executing = none := by
  have hpos : 1 ≤ frameDuration s := (phase_times_pos hs.accepts.cfg_wf true).2.2.trans (Nat.le_add_left _ _)
  obtain ⟨n, hn⟩ : ∃ n, frameDuration s = n + 1 := ⟨_, (Nat.sub_add_cancel hpos).symm⟩
  obtain ⟨t, ht, hf⟩ := hs.frameAt n (by omega)
  obtain ⟨hr, hp⟩ := hs.runs hf.after (by omega)
  obtain ⟨u, hu, hc, hafter, hnext | ⟨hq, hfsm, he, -⟩⟩ := hf.step hr hp
  · have hlen := hnext.length hs.accepts.cfg_wf
    omega
  · exact ⟨u, hn ▸ run_succ_of_run ht hu, hc, hn ▸ hafter, hq, hfsm, he⟩

/-- R38: in an undisturbed cycle of a frame the wire is at `LINE`. -/
theorem wire_of_frame (hc : ControlInv t) (hs : t.seq ≠ .idle) (hg : t.glitched = false) (hp : preemptNow t = false) :
    wire t = some (levelOf t.line) := by
  have hx : pinCommandExecuting t = false := by simp [pinCommandExecuting, hc.frame_port hs]
  cases hl : t.line <;> simp [wire, levelOf, hx, hg, hp, (hc.frame hs).oe_on, hl]

end

/-- Settles O42: the frame shows its waveform cycle by cycle, and ends with it. -/
theorem frameWaveform : Obligations.FrameWaveform := by
  intro s w rest h m ha hd hc hg hf hv hr henv
  have hb : BoundTo h m s := by
    obtain ⟨h', m', hr', hh, hm⟩ := hc.bound (by simp [hf])
    cases hr.symm.trans hr'
    exact ⟨hh, hm⟩
  have hs : AcceptsShow s w rest h m := ⟨ha, hd, hc, hg, hf, hv, hb, henv⟩
  refine ⟨frameWave_length ha.cfg_wf h m, frameDuration_of_equal_periods, fun n hn => ?_, ?_⟩
  · obtain ⟨t, ht, hft⟩ := hs.frameAt n hn
    obtain ⟨-, hp⟩ := hs.runs hft.after hn.le
    have hfr := hft.control.frame hft.in_frame
    have hshown : (frameWave s h m)[n]? = some (t.line, t.gpioEv) := by rw [← List.head?_drop, hft.wave]; rfl
    exact ⟨t, ht, hshown, wire_of_frame hft.control hft.in_frame hft.after.intact hp, hfr.transmitting, hfr.crit_on,
      hfr.mt_on, cmdReady_of_frame hft.in_frame⟩
  · obtain ⟨t, ht, hct, hafter, hq, hft, he⟩ := hs.ends
    obtain ⟨hrun, -⟩ := hs.runs hafter le_rfl
    have hi := hct.idle hq
    exact ⟨t, ht, hq, hft, hi.line_low, hi.crit_off, hi.mt_off, hafter.intact, cmdReady_iff.2 ⟨hrun.no_reset, hq, he⟩,
      hafter.data.buf, hafter.host⟩

end Sys2Proof.Machine
end

section
/-! PROOFS. The statements of the pixel buffer (41_pixel_buffer.md): the value of a written byte (R171), what SETPIX3, SETPIXP and
GETPIX do in range and out of range (R170, R172 to R174, R177, R178), and the answers of NUMPIX and COLOR (R175, R176). -/

namespace Sys2Proof.Machine

open Sys2Proof

/-! ## The value of a written byte -/

/-- R171: away from the sentinel the 8 bits of a byte hold the whole scaled product. -/
theorem scaleW_toNat {bright : BitVec 9} (hb : bright ≠ 0) (hle : bright.toNat ≤ 256) (c : Byte) :
    (scaleW bright c).toNat = (c.toNat * bright.toNat) >>> 8 := by
  have hprod : c.toNat * bright.toNat < 256 * 256 := by
    have := Nat.mul_le_mul_left c.toNat hle
    have := c.isLt
    omega
  rw [scaleW, if_neg hb, BitVec.toNat_ofNat, Nat.shiftRight_eq_div_pow]
  exact Nat.mod_eq_of_lt (Nat.div_lt_of_lt_mul hprod)

/-- R171: public level 255 leaves a byte as it is. -/
theorem scaleW_of_toNat_eq_256 {bright : BitVec 9} (hb : bright.toNat = 256) (c : Byte) : scaleW bright c = c := by
  have hne : bright ≠ 0 := by rintro rfl; simp at hb
  apply BitVec.eq_of_toNat_eq
  rw [scaleW_toNat hne hb.le, hb, Nat.shiftRight_eq_div_pow]
  exact Nat.mul_div_cancel _ (by decide)

/-- R171: public level 0 stores 0. -/
theorem scaleW_of_toNat_eq_one {bright : BitVec 9} (hb : bright.toNat = 1) (c : Byte) : scaleW bright c = 0 := by
  have hne : bright ≠ 0 := by rintro rfl; simp at hb
  apply BitVec.eq_of_toNat_eq
  rw [scaleW_toNat hne (by omega), hb, Nat.mul_one, Nat.shiftRight_eq_div_pow]
  exact Nat.div_eq_of_lt c.isLt

/-- Settles O22: at a legal brightness the scaled product fits a byte, so nothing is cut off. -/
theorem writeTimeScaling : Obligations.WriteTimeScaling := fun _ c hle =>
  ⟨fun hb => scaleW_of_eq_zero hb c, fun hb => scaleW_toNat hb hle c, fun hb => scaleW_of_toNat_eq_256 hb c,
    fun hb => scaleW_of_toNat_eq_one hb c⟩

/-! ## The pixel commands -/

/-- R172: writing a pixel leaves every byte that is not one of its three. -/
theorem bufGet_bufWithPixel_of_ne (s : State) {i : PixIndex} (r g b : Byte) {a : Nat} (h0 : a ≠ base i)
    (h1 : a ≠ base i + 1) (h2 : a ≠ base i + 2) : bufGet (bufWithPixel s i r g b) a = bufGet s.buf a := by
  have hne : ∀ {k}, k < 3 → a ≠ base i + k := by omega
  simp only [bufWithPixel, bufGet_bufSet, hne (rOff_lt _), hne (gOff_lt _), hne (bOff_lt _), if_false]

/-- R173: SETPIXP is SETPIX3 with the unpacked colour. -/
theorem exec_setPixP (i : PixIndex) (c : Color) (s : State) :
    exec (.setPixP i c) s = exec (.setPix3 i (redOf c) (greenOf c) (blueOf c)) s := rfl

/-- R170: SETPIX3 out of range does nothing. -/
theorem exec_setPix3_of_not_inRange {s : State} {i : PixIndex} (r g b : Byte) (h : ¬pixelInRange s i = true) :
    exec (.setPix3 i r g b) s = .next s := by
  rw [exec_eq_resultOf (.setPix3 i r g b) s nofun, resultOf, if_neg h]

/-- R174: GETPIX out of range answers 0. -/
theorem exec_getPix_of_not_inRange {s : State} {i : PixIndex} (h : ¬pixelInRange s i = true) :
    exec (.getPix i) s = .next (respond 0 s) := by
  rw [exec_eq_resultOf (.getPix i) s nofun, resultOf, if_neg h]
  rfl

/-- Settles O19: the state with the pixel written differs in the three bytes at the channels' addresses alone. -/
theorem setPix3StoresScaledBytes : Obligations.SetPix3StoresScaledBytes := by
  intro s i r g b
  rw [← pixelInRange_iff]
  refine ⟨fun h => ⟨_, exec_setPix3_of_inRange r g b h, rfl, ?_⟩, exec_setPix3_of_not_inRange r g b⟩
  exact ⟨bufGet_bufWithPixel_red s i r g b, bufGet_bufWithPixel_green s i r g b, bufGet_bufWithPixel_blue s i r g b,
    fun _ => bufGet_bufWithPixel_of_ne s r g b⟩

/-- Settles O20: SETPIXP answers what SETPIX3 answers, so it stores what SETPIX3 stores. -/
theorem setPixPStoresUnpackedColour : Obligations.SetPixPStoresUnpackedColour := by
  refine ⟨fun s i c => exec_setPixP i c s, fun s i c hv hi => ?_⟩
  rw [exec_setPixP]
  exact (setPix3StoresScaledBytes s i _ _ _).1 ⟨hv, hi⟩

/-- Settles O24: the answer in range is packed from the three stored bytes, and unpacking gives them back. -/
theorem getPixAnswersStoredBytes : Obligations.GetPixAnswersStoredBytes := by
  intro s i
  rw [← pixelInRange_iff]
  refine ⟨fun h => ⟨_, exec_getPix_of_inRange h, ?_⟩, exec_getPix_of_not_inRange⟩
  exact ⟨redOf_packColor _ _ _, greenOf_packColor _ _ _, blueOf_packColor _ _ _⟩

/-- Settles O26: GETPIX reads the addresses SETPIX3 wrote, and at the sentinel scaling is the identity. -/
theorem setThenGetRoundTrip : Obligations.SetThenGetRoundTrip := by
  intro s i r g b hv hi
  have h : pixelInRange s i = true := pixelInRange_iff.2 ⟨hv, hi⟩
  refine ⟨_, _, exec_setPix3_of_inRange r g b h, exec_getPix_bufWithPixel r g b h, rfl, fun hb => ?_⟩
  simp only [respond, scaleW_of_eq_zero hb]

/-- Settles O23: such an index fails the range check of all three commands. -/
theorem outOfRangePixelIsNoOp : Obligations.OutOfRangePixelIsNoOp := by
  intro s i h
  have hout : ¬pixelInRange s i = true := by
    rw [pixelInRange_iff]
    rintro ⟨hv, hi⟩
    rcases h with hn | hn
    · exact absurd hv (by simp [hn])
    · omega
  refine ⟨fun r g b => exec_setPix3_of_not_inRange r g b hout, fun c => ?_, exec_getPix_of_not_inRange hout⟩
  rw [exec_setPixP]
  exact exec_setPix3_of_not_inRange _ _ _ hout

/-! ## The answers of NUMPIX and COLOR -/

/-- Settles O25: the LED count fits the 24 bits of an answer, and COLOR packs its operands. -/
theorem numPixAndColorAnswer : Obligations.NumPixAndColorAnswer := by
  refine ⟨fun s => ⟨s.nLeds.setWidth 24, ?_, rfl⟩, fun s r g b => ⟨packColor r g b, packColor_toNat r g b, rfl⟩⟩
  exact BitVec.toNat_setWidth_of_le (by decide)

end Sys2Proof.Machine
end

section
/-! PROOFS. The statements of the brightness scaler (42_brightness.md): what SETBRT answers (R200, R202, R208), the rescaled byte
(R203, R204), and the bounds on it (R206, R209, R210). -/

namespace Sys2Proof.Machine

open Sys2Proof

/-! ## What SETBRT answers -/

/-- R201: levels are compared as they are stored. -/
theorem newStored_eq_iff {level : Byte} {b : BitVec 9} : newStored level = b ↔ level.toNat + 1 = b.toNat := by
  rw [← newStored_toNat, BitVec.toNat_inj]

/-- The state with the buffer rescaled to a level (R203 to R205). -/
def rescaledTo (level : Byte) (s : State) : State := { s with
  buf := mapBytes (rescaleByte (rescaleFactor (newStored level) s.bright)) (nBytes s) s.buf
  bright := newStored level }

/-- R200: with a buffer and a new level SETBRT rescales the buffer. -/
theorem exec_setBrt_of_new {s : State} {level : Byte} (hv : s.bufValid = true) (hne : level.toNat + 1 ≠ s.bright.toNat) :
    exec (.setBrt level) s = .next (rescaledTo level s) := by
  rw [exec_eq_resultOf (.setBrt level) s nofun, resultOf, if_pos ⟨hv, mt newStored_eq_iff.1 hne⟩, rescaledTo]

/-- R202, R208: otherwise SETBRT does nothing. -/
theorem exec_setBrt_of_not_new {s : State} {level : Byte}
    (h : ¬(s.bufValid = true ∧ level.toNat + 1 ≠ s.bright.toNat)) : exec (.setBrt level) s = .next s := by
  rw [exec_eq_resultOf (.setBrt level) s nofun, resultOf,
    if_neg fun hn => h ⟨hn.1, mt newStored_eq_iff.2 hn.2⟩]

/-- R202: SETBRT of the stored level does nothing. -/
theorem exec_setBrt_of_stored {s : State} {level : Byte} (h : level.toNat + 1 = s.bright.toNat) :
    exec (.setBrt level) s = .next s :=
  exec_setBrt_of_not_new fun hn => hn.2 h

@[simp] theorem rescaledTo_bright_toNat (level : Byte) (s : State) :
    (rescaledTo level s).bright.toNat = level.toNat + 1 := newStored_toNat level

/-- R204: what the pass leaves at an address of the buffer. -/
theorem bufGet_rescaledTo_of_lt {s : State} {a : Nat} (level : Byte) (ha : a < nBytes s) :
    bufGet (rescaledTo level s).buf a = rescaleByte (rescaleFactor (newStored level) s.bright) (bufGet s.buf a) := by
  rw [rescaledTo, bufGet_mapBytes, if_pos ha]

/-- R205: the pass visits no address outside the buffer. -/
theorem bufGet_rescaledTo_of_le {s : State} {a : Nat} (level : Byte) (ha : nBytes s ≤ a) :
    bufGet (rescaledTo level s).buf a = bufGet s.buf a := by
  rw [rescaledTo, bufGet_mapBytes, if_neg (Nat.not_lt.2 ha)]

/-! ## The rescaled byte -/

/-- R203: the scale factor in terms of the public level. -/
theorem rescaleFactor_newStored (level : Byte) (old : BitVec 9) :
    rescaleFactor (newStored level) old = if old = 0 then 0 else (((level.toNat + 1) <<< 8) - 1) / old.toNat := by
  rw [rescaleFactor, newStored_toNat]

/-- R204: `trunc_8` keeps the remainder by 256. -/
theorem rescaleByte_toNat (scale : Nat) (x : Byte) :
    (rescaleByte scale x).toNat = ((x.toNat * scale) >>> 8) % 256 := BitVec.toNat_ofNat _ _

/-- R206: the scale factor of the sentinel erases a byte. -/
@[simp] theorem rescaleByte_zero (x : Byte) : rescaleByte 0 x = 0 := by simp [rescaleByte]

/-- R209: for a byte within what the old brightness allows, `trunc_8` drops nothing. -/
theorem rescaleByte_toNat_of_le {level x : Byte} {old : BitVec 9} (hx : x.toNat ≤ (255 * old.toNat) >>> 8) :
    (rescaleByte (rescaleFactor (newStored level) old) x).toNat =
      (x.toNat * rescaleFactor (newStored level) old) >>> 8 := by
  have hprod : x.toNat * rescaleFactor (newStored level) old < 2 ^ 8 * 256 := by
    have hle := mul_rescaleFactor_le (new := newStored level) hx
    have := level.isLt
    rw [newStored_toNat] at hle
    omega
  rw [rescaleByte_toNat, Nat.shiftRight_eq_div_pow]
  exact Nat.mod_eq_of_lt (Nat.div_lt_of_lt_mul hprod)

/-- Settles O27: at a new level SETBRT answers the rescaled state. -/
theorem setBrtRescalesEveryByte : Obligations.SetBrtRescalesEveryByte := by
  refine fun s level => ⟨fun ⟨hv, hne⟩ => ?_, exec_setBrt_of_not_new⟩
  refine ⟨rescaledTo level s, exec_setBrt_of_new hv hne, rfl, rescaledTo_bright_toNat level s, fun a ha => ?_,
    fun _ => bufGet_rescaledTo_of_le level⟩
  rw [bufGet_rescaledTo_of_lt level ha, rescaleByte_toNat, rescaleFactor_newStored]

/-- Settles O28: without a buffer there is nothing to rescale. -/
theorem setBrtOnInertObjectIsNoOp : Obligations.SetBrtOnInertObjectIsNoOp :=
  fun _ _ hv => exec_setBrt_of_not_new fun hn => by simp [hv] at hn

/-- Settles O29: the rescaled state stores the level it was rescaled to. -/
theorem setBrtTwiceRescalesOnce : Obligations.SetBrtTwiceRescalesOnce := by
  refine ⟨fun _ _ => exec_setBrt_of_stored, fun s level => ?_⟩
  by_cases h : s.bufValid = true ∧ level.toNat + 1 ≠ s.bright.toNat
  · exact ⟨_, exec_setBrt_of_new h.1 h.2, exec_setBrt_of_stored (rescaledTo_bright_toNat level s).symm⟩
  · exact ⟨s, exec_setBrt_of_not_new h, exec_setBrt_of_not_new h⟩

/-- Settles O30: no level is stored as the sentinel, and the sentinel's scale factor is 0. -/
theorem firstSetBrtErases : Obligations.FirstSetBrtErases := by
  intro s level hv hb
  have hne : level.toNat + 1 ≠ s.bright.toNat := by simp [hb]
  refine ⟨_, exec_setBrt_of_new hv hne, rescaledTo_bright_toNat level s, fun a ha => ?_⟩
  rw [bufGet_rescaledTo_of_lt level ha, rescaleFactor_newStored, if_pos hb, rescaleByte_zero]

/-- R209: whatever the level, SETBRT leaves it stored and every byte within what it allows. -/
theorem exec_setBrt_byte_le {s : State} (level : Byte) (h : BrightnessInv s) (hv : s.bufValid = true)
    (hb : s.bright ≠ 0) :
    ∃ t, exec (.setBrt level) s = .next t ∧ t.bright.toNat = level.toNat + 1 ∧
      ∀ a, a < nBytes s → (bufGet t.buf a).toNat ≤ (255 * (level.toNat + 1)) >>> 8 := by
  by_cases hl : level.toNat + 1 = s.bright.toNat
  · exact ⟨s, exec_setBrt_of_stored hl, hl.symm, hl ▸ h.byte_le hb⟩
  · refine ⟨_, exec_setBrt_of_new hv hl, rescaledTo_bright_toNat level s, fun a ha => ?_⟩
    rw [bufGet_rescaledTo_of_lt level ha, ← newStored_toNat]
    exact rescaleByte_le fun ho => h.byte_le ho a ha

/-- Settles O31: the product of a rescaled byte fits 16 bits. -/
theorem rescaleNeverOverflows : Obligations.RescaleNeverOverflows := by
  intro s level h hv hb
  obtain ⟨t, ht, -, hle⟩ := exec_setBrt_byte_le level h hv hb
  refine ⟨t, ht, hle, fun hl a ha => ?_⟩
  cases ht.symm.trans (exec_setBrt_of_new hv hl)
  rw [bufGet_rescaledTo_of_lt level ha, rescaleByte_toNat_of_le (h.byte_le hb a ha), rescaleFactor_newStored, if_neg hb]

/-- Settles O32: the stored value 1 allows no byte but 0. -/
theorem setBrtZeroDarkens : Obligations.SetBrtZeroDarkens := by
  intro s h hv h2
  have hb : s.bright ≠ 0 := fun hb => by simp [hb] at h2
  obtain ⟨t, ht, hbright, hle⟩ := exec_setBrt_byte_le 0 h hv hb
  exact ⟨t, ht, hbright, fun a ha => BitVec.eq_of_toNat_eq (Nat.le_zero.1 (hle a ha))⟩

end Sys2Proof.Machine
end

section
/-! PROOFS. The statements of the driver facade (43_facade.md): what BEGIN, END and SETPIN answer (R222 to R228), by what a cycle
moves `FSM` (R220), and what a cycle of a frame leaves as it is (R230, R139). -/

namespace Sys2Proof.Machine

open Sys2Proof

/-! ## The commands of the facade -/

/-- The state in which BEGIN has bound the pin (R222). -/
def pinBegun (h : Handle) (m : PortValue) (s : State) : State := { s with
  pinHandle := some h, pinMask := some m, oe := true, line := false, fsm := .ready,
  gpioPending := s.gpioPending ++ [.mode s.pinId .output, .clr h m] }

/-- The state in which SETPIN has bound another pin in place of the old one (R226). -/
def pinRebound (new : PinId) (h : Handle) (m : PortValue) (s : State) : State := { s with
  pinId := new, pinHandle := some h, pinMask := some m, line := false,
  gpioPending := s.gpioPending ++ [.mode s.pinId .input, .mode new .output, .clr h m] }

/-- R223: BEGIN binds a pin that resolves, whatever `FSM` is. -/
theorem exec_begin_of_resolved {s : State} {h : Handle} {m : PortValue} (hr : resolve s.cfg s.pinId = some (h, m)) :
    exec .beginBind s = .next (pinBegun h m s) := by
  simp only [exec_eq_resultOf .beginBind s nofun, resultOf, hr, pinBegun]

theorem exec_begin_of_unresolved {s : State} (hr : resolve s.cfg s.pinId = none) : exec .beginBind s = .next s := by
  simp only [exec_eq_resultOf .beginBind s nofun, resultOf, hr]

theorem exec_end_of_unresolved {s : State} (hr : resolve s.cfg s.pinId = none) :
    exec .endBind s = .next { s with oe := false, fsm := .unbound } := by
  simp [exec_eq_resultOf .endBind s nofun, resultOf, hr]

theorem exec_setPin_of_ready {s : State} {new : PinId} {h : Handle} {m : PortValue} (hf : s.fsm = .ready)
    (hr : resolve s.cfg new = some (h, m)) : exec (.setPin new) s = .next (pinRebound new h m s) := by
  simp only [exec_eq_resultOf (.setPin new) s nofun, resultOf, hr, if_pos hf, pinRebound]

/-- R227: outside `Ready` SETPIN records the pin and calls no event. -/
theorem exec_setPin_of_not_ready {s : State} {new : PinId} (hf : s.fsm ≠ .ready) (hr : resolve s.cfg new ≠ none) :
    exec (.setPin new) s = .next { s with pinId := new } := by
  obtain ⟨_, hr⟩ := Option.ne_none_iff_exists'.1 hr
  simp only [exec_eq_resultOf (.setPin new) s nofun, resultOf, hr, if_neg hf]

theorem exec_setPin_of_unresolved {s : State} {new : PinId} (hr : resolve s.cfg new = none) :
    exec (.setPin new) s = .next s := by
  simp only [exec_eq_resultOf (.setPin new) s nofun, resultOf, hr]

/-- Settles O33: `Resolve(PIN_ID)` decides between the two ways of BEGIN. -/
theorem beginBindsPin : Obligations.BeginBindsPin :=
  ⟨fun _ _ _ => exec_begin_of_resolved, fun _ => exec_begin_of_unresolved⟩

/-- Settles O34: END answers its result in every state. -/
theorem endReleasesPin : Obligations.EndReleasesPin := fun s => exec_eq_resultOf .endBind s nofun

/-- Settles O35: `Resolve(new)` and `FSM` decide between the three ways of SETPIN. -/
theorem setPinRebindsInReady : Obligations.SetPinRebindsInReady :=
  ⟨fun _ _ _ _ => exec_setPin_of_ready, fun _ _ => exec_setPin_of_not_ready, fun _ _ => exec_setPin_of_unresolved⟩

/-- Settles O36: the recorded pin is the one BEGIN resolves. -/
theorem setPinRecordsWhenUnbound : Obligations.SetPinRecordsWhenUnbound := fun s new _ _ hf hr =>
  ⟨exec_setPin_of_not_ready (by simp [hf]) (by simp [hr]), exec_begin_of_resolved (s := { s with pinId := new }) hr⟩

/-- Settles O37: the ways of the three commands for a pin that does not resolve. -/
theorem unresolvedPinIgnored : Obligations.UnresolvedPinIgnored :=
  ⟨fun _ hr => ⟨exec_begin_of_unresolved hr, exec_end_of_unresolved hr⟩, fun _ _ => exec_setPin_of_unresolved⟩

/-! ## What moves the facade -/

/-- The ways an accepted command can move `FSM` (R220): BEGIN with a pin that resolves, SHOW with a buffer, END. -/
inductive FsmMove (s u : State) : Instr → Prop where
  | beginBind : resolve s.cfg s.pinId ≠ none → u.fsm = .ready → FsmMove s u .beginBind
  | showFrame : s.fsm = .ready → s.bufValid = true → u.fsm = .transmitting → FsmMove s u .showFrame
  | endBind : u.fsm = .unbound → FsmMove s u .endBind

/-- R220: no other command writes `FSM`. -/
theorem fsmMove_of_exec {i : Instr} {s u : State} (hx : exec i s = .next u) (hne : u.fsm ≠ s.fsm) : FsmMove s u i := by
  cases exec_cases hx with
  | ignored => exact absurd rfl hne
  | empty hi hf hv => exact hi ▸ .showFrame hf hv rfl
  | frame h m hi hf hv => exact hi ▸ .showFrame hf hv rfl
  | result hi =>
    cases i with
    | showFrame => exact absurd rfl hi
    | endBind => exact .endBind rfl
    | beginBind =>
      cases hr : resolve s.cfg s.pinId with
      | none => simp [resultOf, hr] at hne
      | some hm => exact .beginBind (by simp [hr]) (by simp [resultOf, hr])
    | setPin p => exact absurd (by simp only [resultOf]; split <;> [rfl; (split <;> rfl)]) hne
    | setPix3 | setPixP | setBrt => exact absurd (by simp only [resultOf]; split <;> rfl) hne
    | getPix | numPix | color => exact absurd rfl hne

/-- R266: a disturbed cycle leaves `FSM`, or ends the frame. -/
theorem disturbedStep_fsm (n : Nat) (s : State) :
    (disturbedStep n s).fsm = s.fsm ∨ (disturbedStep n s).fsm = .ready := by
  cases n with
  | zero => exact .inr rfl
  | succ k => exact .inl rfl

/-- R134: the sequencer step leaves `FSM` but in the last cycle of the gap. -/
theorem sequencerStep_fsm {s u : State} (hs : s.seq ≠ .idle) (hu : sequencerStep s = .ok u) (hne : u.fsm ≠ s.fsm) :
    s.seq = .gap ∧ s.cnt.toNat ≤ 1 ∧ u.fsm = .ready := by
  cases sequencerStep_cases hs hu with
  | count | low | next | gap => exact absurd rfl hne
  | finish hq hc => exact ⟨hq, hc, rfl⟩

/-- R220: a facade with the sequencer idle is `Unbound` or `Ready`. -/
theorem IdleFacade.fsm_cases {s : State} (h : IdleFacade s) : s.fsm = .unbound ∨ s.fsm = .ready := by
  have := h.not_transmitting
  cases hf : s.fsm <;> simp_all

/-- Settles O38: every kind of cycle but those of the table keeps `FSM`. -/
theorem facadeTransitions : Obligations.FacadeTransitions := by
  intro s t hc hr h hne
  cases step_cases h with
  | reset st o _ hi => exact absurd hi (not_reset_of_rstNow hr)
  | busy | idle => exact absurd (by simp [release]) hne
  | reserved => exact absurd (by rw [occupy_eq]; simp) hne
  | disturbed n _ hs hd =>
    have hf := (hc.frame hs).transmitting
    rw [closeCycle_fsm] at hne ⊢
    exact .inr (.inr (.inr ⟨hf, (disturbedStep_fsm n (tick s)).resolve_left hne, .inl (by simp [hd])⟩))
  | preempted _ hs _ hp =>
    have hf := (hc.frame hs).transmitting
    rw [closeCycle_fsm] at hne ⊢
    exact .inr (.inr (.inr ⟨hf, (disturbedStep_fsm _ _).resolve_left hne, .inr (.inl hp)⟩))
  | sequencer u _ hs _ _ hu =>
    have hf := hc.frame hs
    rw [closeCycle_fsm] at hne ⊢
    obtain ⟨hq, hcnt, hu⟩ := sequencerStep_fsm (s := tick s) hs hu hne
    exact .inr (.inr (.inr ⟨hf.transmitting, hu, .inr (.inr ⟨hq, hcnt.antisymm hf.cnt_pos⟩)⟩))
  | command w rest i u ha hd hx =>
    have hf := (hc.idle ha.seq_idle).fsm_cases
    rw [occupy_eq, closeCycle_fsm] at hne ⊢
    cases fsmMove_of_exec hx hne with
    | beginBind hp hu => exact .inl ⟨hf.resolve_right fun hf => hne (hu.trans hf.symm), hu, hp, w, rest, ha, hd⟩
    | showFrame hf hv hu => exact .inr (.inl ⟨hf, hu, hv, w, rest, ha, hd⟩)
    | endBind hu =>
      exact .inr (.inr (.inl ⟨hf.resolve_left fun hf => hne (hu.trans hf.symm), hu, w, rest, ha, hd⟩))

/-! ## What a frame leaves as it is -/

/-- Settles O44: neither the sequencer step nor a disturbed cycle writes any of it, and the end of the cycle writes only the GPIO
space and the events. -/
theorem frameCycleKeepsEverythingElse : Obligations.FrameCycleKeepsEverythingElse := by
  intro s t hs hr h
  cases step_cases h with
  | reset st o _ hi => exact absurd hi (not_reset_of_rstNow hr)
  | busy _ _ hq | idle _ _ hq => exact absurd hq hs
  | reserved _ _ _ ha | command _ _ _ _ ha => exact absurd ha.seq_idle hs
  | disturbed n => simp [disturbedStep_keeps n (tick s)]
  | preempted => simp [disturb_keeps (tick s)]
  | sequencer u _ _ _ _ hu => simp [sequencerStep_keeps (s := tick s) hs hu]

end Sys2Proof.Machine
end

section
/-! PROOFS. The statements of the exceptions (60_exceptions.md) about the GPIO binding: what one event writes (R262, R263), which
event a cycle issues and with what effect (R261), and what stops another owner (R264). -/

namespace Sys2Proof.Machine

open Sys2Proof

/-! ## What one event writes -/

theorem touches_eq_false {h k : Handle} {m n : PortValue} (hd : h ≠ k ∨ m &&& n = 0) :
    touches k n (.set h m) = false ∧ touches k n (.clr h m) = false := by
  rcases hd with hd | hd <;> simp [touches, hd]

/-- Settles O48: the levels of the bits and the modes after an event, one by one. -/
theorem gpioEventsWriteOneBit : Obligations.GpioEventsWriteOneBit := by
  refine ⟨fun s h m hm => ⟨outBit_set s h m hm, outBit_clr s h m⟩, fun s h k m n hd => ?_,
    fun s p q d => modeGet_modeSet s.mode p q (some d), fun s p d h m => ⟨rfl, rfl, rfl⟩⟩
  obtain ⟨hset, hclr⟩ := touches_eq_false hd
  exact ⟨outBit_applyGpio s _ k n hset, outBit_applyGpio s _ k n hclr⟩

/-- R262, R263: what an event leaves of the GPIO space depends on the GPIO space alone. -/
theorem applyGpio_gpio_congr (e : GpioEvent) {s t : State} (ho : s.out = t.out) (hm : s.mode = t.mode) :
    (applyGpio e s).out = (applyGpio e t).out ∧ (applyGpio e s).mode = (applyGpio e t).mode := by
  cases e <;> simp [applyGpio, ho, hm]

/-! ## The event a cycle issues -/

/-- R261: with the port `gpio_ev` cleared, the event a cycle issues is the oldest pending one, or none. -/
theorem eventIssued_eq_head? {s : State} (he : s.gpioEv = none) : eventIssued s = s.gpioPending.head? := by
  unfold eventIssued
  split
  · next hp => rw [he, hp]; rfl
  · next hp => rw [hp]; rfl

/-- Settles O15: the busy cycle is the passing of the cycle, the issuing of its event, and the release of the port. -/
theorem busyCycleIssuesOldestEvent : Obligations.BusyCycleIssuesOldestEvent := by
  intro s e hr hs he
  have hev : (closeCycle (othersNow s) (tick s)).gpioEv = s.gpioPending.head? := by
    rw [closeCycle_gpioEv, eventIssued_eq_head? rfl]; rfl
  refine ⟨_, step_busy hr hs he, hev, by simp [release], rfl, rfl, ?_⟩
  obtain ⟨o, m, hclose⟩ := closeCycle_same (othersNow s) (tick s)
  rw [hclose]
  rfl

/-- Nothing of the GPIO space of `s` has changed in `u`, and no event takes effect in `u` yet: `u` is what a cycle comes to before
its event is issued. -/
structure BeforeIssue (s u : State) : Prop where
  out : u.out = s.out
  mode : u.mode = s.mode
  no_event : u.gpioEv = none

theorem beforeIssue_tick (s : State) : BeforeIssue s (tick s) := ⟨rfl, rfl, rfl⟩

theorem beforeIssue_taken (rest : List Offer) (s : State) : BeforeIssue s (taken rest s) := ⟨rfl, rfl, rfl⟩

theorem BeforeIssue.disturbedStep (n : Nat) {s u : State} (h : BeforeIssue s u) :
    BeforeIssue s (Machine.disturbedStep n u) := by
  cases n <;> exact { h with }

theorem BeforeIssue.disturb {s u : State} (h : BeforeIssue s u) : BeforeIssue s (Machine.disturb u) :=
  .disturbedStep _ { h with }

theorem BeforeIssue.sequencerStep {s u v : State} (h : BeforeIssue s u) (hs : u.seq ≠ .idle)
    (hv : Machine.sequencerStep u = .ok v) : BeforeIssue s v := by
  cases sequencerStep_cases hs hv <;> exact { h with }

theorem BeforeIssue.occupy (c : Option Instr) {s u : State} (h : BeforeIssue s u) : BeforeIssue s (Machine.occupy c u) := by
  rw [occupy_eq]
  exact { h with }

/-- R261: a command's rule calls its events; it writes no register and no mode itself. -/
theorem BeforeIssue.exec {i : Instr} {s u v : State} (h : BeforeIssue s u) (hx : Machine.exec i u = .next v) :
    BeforeIssue s v := by
  cases exec_cases hx with
  | ignored => exact h
  | empty | frame => exact { h with }
  | result hi =>
    cases i with
    | showFrame => exact absurd rfl hi
    | beginBind => simp only [resultOf]; split <;> exact { h with }
    | setPin => simp only [resultOf]; split <;> [exact h; (split <;> exact { h with })]
    | setPix3 | setPixP | setBrt => simp only [resultOf]; split <;> exact { h with }
    | endBind | getPix | numPix | color => exact { h with }

/-- R261: every cycle without reset comes to its end with the GPIO space as it was, and a busy one then releases the port. -/
theorem step_beforeIssue {s t : State} (hr : rstNow s = false) (h : step s = .next t) : ∃ u, BeforeIssue s u ∧
    (t = closeCycle (othersNow s) u ∨ ∃ e, t = release e (closeCycle (othersNow s) u)) := by
  cases step_cases h with
  | reset st o _ hi => exact absurd hi (not_reset_of_rstNow hr)
  | disturbed n => exact ⟨_, (beforeIssue_tick s).disturbedStep n, .inl rfl⟩
  | preempted => exact ⟨_, (beforeIssue_tick s).disturb, .inl rfl⟩
  | sequencer u _ hs _ _ hu => exact ⟨u, (beforeIssue_tick s).sequencerStep hs hu, .inl rfl⟩
  | busy e => exact ⟨_, beforeIssue_tick s, .inr ⟨e, rfl⟩⟩
  | idle rest => exact ⟨_, beforeIssue_taken rest s, .inl rfl⟩
  | reserved w rest => exact ⟨_, (beforeIssue_taken rest s).occupy none, .inl rfl⟩
  | command w rest i u _ _ hx => exact ⟨_, ((beforeIssue_taken rest s).exec hx).occupy _, .inl rfl⟩

/-- The registers and the modes as the event on `gpio_ev`, if there is one, leaves those of `s`. -/
def gpioAfter (s : State) : Option GpioEvent → Table PortReg × Table (Option PinMode)
  | none => (s.out, s.mode)
  | some e => ((applyGpio e s).out, (applyGpio e s).mode)

/-- R261 to R263: without another owner's event, the end of a cycle changes the GPIO space by the event it issues. -/
theorem BeforeIssue.closeCycle_gpio {s u : State} (h : BeforeIssue s u) :
    ((closeCycle [] u).out, (closeCycle [] u).mode) = gpioAfter s (closeCycle [] u).gpioEv := by
  rw [closeCycle_gpioEv, eventIssued_eq_head? h.no_event]
  cases hp : u.gpioPending with
  | nil =>
    rw [closeCycle_of_nil hp]
    exact Prod.ext h.out h.mode
  | cons e es =>
    rw [closeCycle_of_cons hp]
    obtain ⟨hout, hmode⟩ := applyGpio_gpio_congr e (s := { u with gpioPending := es, gpioEv := some e }) h.out h.mode
    exact Prod.ext hout hmode

/-- Settles O17: whatever the cycle runs, the GPIO space is as before until its event is issued. -/
theorem issuedEventTakesEffect : Obligations.IssuedEventTakesEffect := by
  intro s t hr ho h
  suffices (t.out, t.mode) = gpioAfter s t.gpioEv by rw [this]; cases t.gpioEv <;> rfl
  obtain ⟨u, hu, ht⟩ := step_beforeIssue hr h
  have hgpio := hu.closeCycle_gpio
  rw [← ho] at hgpio
  rcases ht with rfl | ⟨e, rfl⟩ <;> exact hgpio

/-! ## Another owner that breaks a duty -/

/-- R264 (2): the mode of the bound pin. -/
theorem keepsDuty_bound_mode {s : State} (d : PinMode) (hf : s.fsm ≠ .unbound) : keepsDuty s (.mode s.pinId d) = false := by
  simp [keepsDuty, hf]

/-- R264 (2), (3): the bound bit, or during a frame any bit of the bound register. -/
theorem keepsDuty_bound_bit {s : State} {e : GpioEvent} {h : Handle} {m n : PortValue} (he : e = .set h n ∨ e = .clr h n)
    (hb : BoundTo h m s) (hw : s.crit = true ∨ (s.fsm ≠ .unbound ∧ n &&& m ≠ 0)) : keepsDuty s e = false := by
  obtain ⟨hh, hm⟩ := hb
  have hduty : (s.pinHandle != some h || (!s.crit && (s.fsm == .unbound || (n &&& s.pinMask.getD 0) == 0))) = false := by
    rcases hw with hc | ⟨hf, hn⟩
    · simp [hh, hc]
    · simp [hh, hm, hf, hn]
  rcases he with rfl | rfl <;> exact hduty

/-- Settles O49: such a write breaks a duty, and the cycle stops for it. -/
theorem brokenGpioDutyFaults : Obligations.BrokenGpioDutyFaults := by
  intro s e hw hr he hbreak
  have hduty : keepsDuty s e = false := by
    rcases hbreak with ⟨p, d, rfl, hf, rfl⟩ | ⟨h, m, n, hev, hh, hm, hwrite⟩
    · exact keepsDuty_bound_mode d hf
    · exact keepsDuty_bound_bit hev ⟨hh, hm⟩ hwrite
  exact step_dutyBroken hw hr (List.all_eq_false.2 ⟨e, he, by simp [hduty]⟩)

end Sys2Proof.Machine
end

section
/-! PROOFS. The statements of the exceptions (60_exceptions.md) about what can go wrong in a run: when a step answers at all
(R250), and what `PREEMPT` does outside a frame and in one (R266). -/

namespace Sys2Proof.Machine

open Sys2Proof

/-! ## Steps that answer -/

/-- R99: 3 is the one reserved code. -/
theorem orderOfCode_of_wf {st : Straps} (h : st.wf = true) : ∃ o, orderOfCode st.order = some o := by
  have hcodes : ∀ c : BitVec 2, c ≠ 3 → (orderOfCode c).isSome = true := by decide
  exact Option.isSome_iff_exists.1 (hcodes st.order (by simpa [Straps.wf] using h))

/-- Settles O18: a reset answers the reset state, and any other cycle makes progress. -/
theorem stepNeverStops : Obligations.StepNeverStops := by
  intro s hw hc hd hst
  cases hi : inputs s with
  | reset st =>
    obtain ⟨o, ho⟩ := orderOfCode_of_wf (hst st hi)
    exact ⟨_, step_reset hw hi ho⟩
  | run p os => exact step_progress ⟨hw, by simp [rstNow, hi], hd⟩ hc

/-! ## `PREEMPT` outside a frame -/

/-- The state with other inputs in the present cycle. -/
def withInputs (c : EnvCycle) (s : State) : State := { s with env := c :: s.env.tail }

/-- R266: outside a frame `PREEMPT` does not decide what a cycle does. -/
theorem activity_withInputs {s : State} {p : Bool} {os : List GpioEvent} (hs : s.seq = .idle)
    (hi : inputs s = .run p os) (q : Bool) : activity (withInputs (.run q os) s) = activity s := by
  have hi' : inputs (withInputs (.run q os) s) = .run q os := rfl
  have hs' : (withInputs (.run q os) s).seq = .idle := hs
  unfold activity
  simp only [hi, hi', hs, hs', ne_eq, not_true_eq_false, if_false]
  rfl

/-- A cycle does with its inputs nothing but what its activity and the other owners' events say. -/
theorem step_withInputs {s : State} {c : EnvCycle} (ha : activity (withInputs c s) = activity s)
    (ho : othersNow (withInputs c s) = othersNow s) : step (withInputs c s) = step s := by
  unfold step cycle
  rw [ha]
  cases activity s with
  | illFormed | dutyBroken | reset => rfl
  | frame p => simp only [frameCycle, ho]; rfl
  | busy e => simp only [busyCycle, ho]; rfl
  | idle rest => simp only [idleCycle, ho]; rfl
  | accept w rest => simp only [acceptCycle, ho]; rfl

/-- Settles O45: the cycle does the same with either value of `PREEMPT`. -/
theorem preemptWhileIdleHasNoEffect : Obligations.PreemptWhileIdleHasNoEffect := by
  intro s os hs hi
  have ho : othersNow (withInputs (.run false os) s) = othersNow s := by simp only [othersNow, hi]; rfl
  exact (step_withInputs (activity_withInputs hs hi false) ho).symm

/-! ## `PREEMPT` in a frame -/

/-- R264: inputs that are harmless to a binding are harmless in every state with that binding. -/
theorem noReset_congr {s t : State} (hp : t.pinId = s.pinId) (hh : t.pinHandle = s.pinHandle) (c : EnvCycle) :
    noReset t c = noReset s c := by
  cases c with
  | reset st => rfl
  | run p os => simpa [noReset, undisturbed] using undisturbed_congr hp hh (.run false os)

/-- `t` is a state of a run through one frame of `s`, or of its end: what no cycle of a frame writes is as in `s`, and the inputs
to come are harmless. -/
structure FrameRun (s t : State) : Prop where
  cfg_wf : t.cfg.wf = true
  control : ControlInv t
  oe_on : t.oe = true
  buf : t.buf = s.buf
  host : t.host = s.host
  harmless : ∀ c ∈ t.env, noReset t c = true

theorem FrameRun.runs {s t : State} (h : FrameRun s t) : Runs t := by
  have hi : noReset t (inputs t) = true := by
    unfold inputs
    split
    · rfl
    · next he => exact h.harmless _ (by simp [he])
  cases hin : inputs t with
  | reset st => simp [hin, noReset] at hi
  | run p os =>
    simp only [hin, noReset, List.all_eq_true] at hi
    refine ⟨h.cfg_wf, by simp [rstNow, hin], ?_⟩
    simp only [othersNow, hin]
    exact List.all_eq_true.2 fun e he => keepsDuty_of_harmless (hi e he)

theorem FrameRun.step {s t u : State} (h : FrameRun s t) (hs : t.seq ≠ .idle) (hu : step t = .next u) : FrameRun s u := by
  obtain ⟨hhost, hbuf, -, -, -, -, hpin, hhandle, -, hoe, -, -, hcfg⟩ :=
    frameCycleKeepsEverythingElse t u hs h.runs.no_reset hu
  refine ⟨hcfg ▸ h.cfg_wf, controlInv_step h.control hu, hoe.trans h.oe_on, hbuf.trans h.buf, hhost.trans h.host,
    fun c hc => ?_⟩
  rw [noReset_congr hpin hhandle]
  exact h.harmless c (List.mem_of_mem_tail ((step_cfg_env hu).2 ▸ hc))

/-- R266: a cycle of the disturbed rest of a frame. -/
theorem step_disturbed {s : State} {n : Nat} (h : Runs s) (hs : s.seq ≠ .idle) (hd : s.disturbed = some n) :
    step s = .next (closeCycle (othersNow s) (disturbedStep n (tick s))) := by
  simp [step_frame h hs, frameCycle, hd]

/-- R266: a preempted cycle of a frame is a disturbed one, and the frame is marked; a further `PREEMPT` changes nothing. -/
theorem step_preempted {s : State} (h : Runs s) (hc : ControlInv s) (hs : s.seq ≠ .idle) (hp : preemptNow s = true) :
    ∃ n v, v.glitched = true ∧ step s = .next (closeCycle (othersNow s) (disturbedStep n v)) := by
  cases hd : s.disturbed with
  | some n => exact ⟨n, tick s, (hc.disturbed_frame (by simp [hd])).2, step_disturbed h hs hd⟩
  | none =>
    refine ⟨Config.disturbedCycles s.draws, { tick s with glitched := true, draws := s.draws + 1 }, rfl, ?_⟩
    rw [step_frame h hs, hp, frameCycle, hd]
    rfl

theorem disturbedStep_marked (n : Nat) {v : State} (hg : v.glitched = true) (os : List GpioEvent) :
    (closeCycle os (disturbedStep n v)).glitched = true := by
  obtain ⟨-, -, -, -, -, -, hgl, -⟩ := disturbedStep_keeps n v
  rw [closeCycle_glitched, hgl, hg]

/-- R266: a disturbed frame ends, by induction on the cycles its disturbed rest has left. -/
theorem FrameRun.ends {s t v : State} {n : Nat} {os : List GpioEvent} (h : FrameRun s t) (hs : t.seq ≠ .idle)
    (hg : v.glitched = true) (ht : Machine.step t = .next (closeCycle os (disturbedStep n v))) :
    ∃ k u, core.run (k + 1) t = .next u ∧ FrameRun s u ∧ u.glitched = true ∧ u.seq = .idle := by
  induction n generalizing t v os with
  | zero =>
    exact ⟨0, _, run_succ_of_step ht 0, h.step hs ht, disturbedStep_marked 0 hg os, by simp [disturbedStep_zero_seq]⟩
  | succ n ih =>
    have hnext := h.step hs ht
    obtain ⟨hseq, hdist⟩ := disturbedStep_succ n v
    have hseq' : (closeCycle os (disturbedStep (n + 1) v)).seq ≠ .idle := by rwa [closeCycle_seq]
    have hstep := step_disturbed hnext.runs hseq' ((closeCycle_disturbed _ _).trans hdist)
    obtain ⟨k, u, hrun, hend⟩ := ih (v := tick _) hnext hseq' (disturbedStep_marked _ hg os) hstep
    exact ⟨k + 1, u, (run_succ_of_step ht _).trans hrun, hend⟩

/-- Settles O46: the preempted cycle is the first of a disturbed frame, which ends; and at the end of a frame the facade is bound
and idle, so R45 says the rest. -/
theorem preemptedFrameEnds : Obligations.PreemptedFrameEnds := by
  intro s hw hc hs hp henv
  have hf : FrameRun s s := ⟨hw, hc, (hc.frame hs).oe_on, rfl, rfl, henv⟩
  obtain ⟨n, v, hg, ht⟩ := step_preempted hf.runs hc hs hp
  refine ⟨⟨_, ht, disturbedStep_marked n hg _⟩, ?_⟩
  obtain ⟨k, u, hrun, hu, hmark, hidle⟩ := hf.ends hs hg ht
  have hfacade := hu.control.idle hidle
  have hready : u.fsm = .ready := hfacade.fsm_cases.resolve_left (hfacade.oe_iff.1 hu.oe_on)
  exact ⟨k, u, hrun, hmark, hidle, hready, hfacade.line_low, hfacade.crit_off, hfacade.mt_off, hu.buf, hu.host⟩

end Sys2Proof.Machine
end

section
/-! PROOFS. The statement of the reset cycle (70_reset_and_hazards.md): a cycle with `rst = 1` accepts nothing and ends in
`resetState`, the reset values. -/

namespace Sys2Proof.Machine

open Sys2Proof

/-- Settles O6: the port is closed by `rst`, and the next state `resetState` is the state of R23 but for the inputs still to
come; its buffer has no entry, so every byte reads 0. -/
theorem resetCycleGivesResetValues : Obligations.ResetCycleGivesResetValues := by
  intro s st o hw hi ho
  refine ⟨cmdReady_of_reset hi, resetState st o s, step_reset hw hi ho, rfl, rfl, rfl, bufGet_nil, ?_⟩
  and_intros <;> rfl

end Sys2Proof.Machine
end
